-- ==== Sys2Proof/Word.lean ====
section
/-! DEFINITION. The word types of the machine: every value is unsigned (spec/00_scope.md R8, R9). -/

namespace Sys2Proof

/-- `u8`: a general register, a memory byte, an immediate `NN`, a timer (R8, R20, R50). -/
abbrev Byte := BitVec 8

/-- `u16`: an instruction word, `PC`, `I`, a stack entry (R8, R23, R24, R27). -/
abbrev Word := BitVec 16

/-- `u12`: the address field `NNN` (R81). -/
abbrev Addr12 := BitVec 12

/-- The number of a general register `V0`..`VF` (R20, R81). -/
abbrev Reg := Fin 16

/-- The number of a key, `0..15` (R32). -/
abbrev Key := Fin 16

/-- The number of `VF`, the register that doubles as the flag (R21). -/
def regF : Reg := 15

end Sys2Proof
end

