-- ==== Sys2Proof/Config.lean ====
section
/-! DEFINITION. The parameters of the block (spec/00_scope.md R6, R7), the types of the host boundary, and the
free values: what the host delivers where a state prescribes no input (spec/60_exceptions.md R250). -/

namespace Sys2Proof

/-! The sizes R6 fixes stand as numerals where they are used: 4096 bytes, 16 registers, 16 stack entries, 64 × 32
pixels, `FONT_BASE = 0x050`, 5 bytes a glyph, `PROG_BASE = 0x200`, `ROM_MAX = 3584`. -/

/-- `FAMILY0_MATCH`: which field of a family-0 word the decoder compares (R84). -/
inductive Family0Match
  | fullWord
  | lowByte
  | lowNibble
deriving DecidableEq, Repr, Inhabited

/-- The rate-adjustment hint of a poll (R234, R250). -/
inductive RateHint
  | none
  | slower
  | faster
deriving DecidableEq, Repr, Inhabited

/-- The parameters a model takes as arguments (R6, R7, R55, R84). State holds one, which no step writes, so a
statement over every state is one over every configuration (DESIGN CHOICE, log 1). -/
structure Config where
  /-- `T_INSTR0 ≥ 1`: the instruction period in ticks at zero offset. -/
  tInstr0 : Nat
  /-- `T_TIMER ≥ 1`: the timer period in ticks. -/
  tTimer : Nat
  /-- `OFFSET_STEP ≥ 0`. -/
  offsetStep : Nat
  /-- `OFFSET_MAX ≥ 0`. -/
  offsetMax : Nat
  /-- `FAMILY0_MATCH`. -/
  family0 : Family0Match
  /-- `FONT[0..79]`. -/
  font : Vector Byte 80
deriving DecidableEq, Repr

/-- A configuration R6 admits: both periods are at least one tick. -/
abbrev Config.valid (c : Config) : Prop := 1 ≤ c.tInstr0 ∧ 1 ≤ c.tTimer

/-- The default `FONT` of R56, one line a glyph (PRESUMED: the spec marks it as general knowledge, log 9). -/
def Config.defaultFont : Vector Byte 80 := #v[
  0xF0, 0x90, 0x90, 0x90, 0xF0,
  0x20, 0x60, 0x20, 0x20, 0x70,
  0xF0, 0x10, 0xF0, 0x80, 0xF0,
  0xF0, 0x10, 0xF0, 0x10, 0xF0,
  0x90, 0x90, 0xF0, 0x10, 0x10,
  0xF0, 0x80, 0xF0, 0x10, 0xF0,
  0xF0, 0x80, 0xF0, 0x90, 0xF0,
  0xF0, 0x10, 0x20, 0x40, 0x40,
  0xF0, 0x90, 0xF0, 0x90, 0xF0,
  0xF0, 0x90, 0xF0, 0x10, 0xF0,
  0xF0, 0x90, 0xF0, 0x90, 0x90,
  0xE0, 0x90, 0xE0, 0x90, 0xE0,
  0xF0, 0x80, 0x80, 0x80, 0xF0,
  0xE0, 0x90, 0x90, 0x90, 0xE0,
  0xF0, 0x80, 0xF0, 0x80, 0xF0,
  0xF0, 0x80, 0xF0, 0x80, 0x80]

/-- The configuration of `State.reset`: the 1 : 10 ratio of R7 and R286, `full_word` and the font of R56; the four
numbers are the model's (DESIGN CHOICE, log 1). -/
def Config.default : Config where
  tInstr0 := 1
  tTimer := 10
  offsetStep := 1
  offsetMax := 3
  family0 := .fullWord
  font := Config.defaultFont

/-! Free values: the host's inputs where a state prescribes none. Each is applied to the counter `draws` of State
(log 2, log 4); nothing in Lean can evaluate one. -/

/-- How many ticks `now` has advanced since the previous iteration; a natural number, so time never runs back (R250). -/
opaque Config.hostElapsed : Nat → Nat
/-- The key a poll reports (R241, R250). -/
opaque Config.hostKey : Nat → Option Key
/-- The rate hint a poll reports (R234, R250). -/
opaque Config.hostHint : Nat → RateHint
/-- Whether a poll requests a quit (R242, R250). -/
opaque Config.hostQuit : Nat → Bool
/-- `randomByte(mask)`: a number in `[0, mask]` (R144, R250, R251). -/
opaque Config.hostRandom : Nat → (mask : Byte) → Fin (mask.toNat + 1)

end Sys2Proof
end

