-- ==== Sys2Proof/Syntax.lean ====
section
/-! DEFINITION. The instructions: one constructor per row of spec/opcode_table.json (spec/30_encoding.md R83, R89). -/

namespace Sys2Proof

/-- The 33 instructions and the 11 unrecognized forms. Operands are the fields of R81: `x`, `y` register numbers,
`nn` and `nnn` immediates, `n` a count. -/
inductive Instr
  /-- `00E0` `CLS` (R160) -/
  | cls
  /-- `00EE` `RET` (R102) -/
  | ret
  /-- `1NNN` `JP NNN` (R103) -/
  | jp (nnn : Addr12)
  /-- `2NNN` `CALL NNN` (R104) -/
  | call (nnn : Addr12)
  /-- `3XNN` `SE VX, NN` (R105) -/
  | seImm (x : Reg) (nn : Byte)
  /-- `4XNN` `SNE VX, NN` (R106) -/
  | sneImm (x : Reg) (nn : Byte)
  /-- `5XY0` `SE VX, VY` (R107) -/
  | seReg (x y : Reg)
  /-- `6XNN` `LD VX, NN` (R133) -/
  | ldImm (x : Reg) (nn : Byte)
  /-- `7XNN` `ADD VX, NN` (R134) -/
  | addImm (x : Reg) (nn : Byte)
  /-- `8XY0` `LD VX, VY` (R135) -/
  | ldReg (x y : Reg)
  /-- `8XY1` `OR VX, VY` (R136) -/
  | orReg (x y : Reg)
  /-- `8XY2` `AND VX, VY` (R137) -/
  | andReg (x y : Reg)
  /-- `8XY3` `XOR VX, VY` (R138) -/
  | xorReg (x y : Reg)
  /-- `8XY4` `ADD VX, VY` (R139) -/
  | addReg (x y : Reg)
  /-- `8XY5` `SUB VX, VY` (R140) -/
  | subReg (x y : Reg)
  /-- `8XY6` `SHR VX, VY` (R141) -/
  | shr (x y : Reg)
  /-- `8XYE` `SHL VX, VY` (R142) -/
  | shl (x y : Reg)
  /-- `9XY0` `SNE VX, VY` (R108) -/
  | sneReg (x y : Reg)
  /-- `ANNN` `LD I, NNN` (R143) -/
  | ldI (nnn : Addr12)
  /-- `BNNN` `JP V0, NNN` (R109) -/
  | jpV0 (nnn : Addr12)
  /-- `CXNN` `RND VX, NN` (R144) -/
  | rnd (x : Reg) (nn : Byte)
  /-- `DXYN` `DRW VX, VY, N` (R162) -/
  | drw (x y : Reg) (n : Fin 16)
  /-- `EX9E` `SKP VX` (R181) -/
  | skp (x : Reg)
  /-- `EXA1` `SKNP VX` (R182) -/
  | sknp (x : Reg)
  /-- `FX07` `LD VX, DT` (R183) -/
  | ldVxDt (x : Reg)
  /-- `FX0A` `LD VX, K` (R184) -/
  | ldVxK (x : Reg)
  /-- `FX15` `LD DT, VX` (R185) -/
  | ldDtVx (x : Reg)
  /-- `FX18` `LD ST, VX` (R186) -/
  | ldStVx (x : Reg)
  /-- `FX1E` `ADD I, VX` (R187) -/
  | addIVx (x : Reg)
  /-- `FX29` `LD F, VX` (R188) -/
  | ldFVx (x : Reg)
  /-- `FX33` `LD B, VX` (R189) -/
  | ldBVx (x : Reg)
  /-- `FX55` `LD [I], VX` (R190) -/
  | ldMemVx (x : Reg)
  /-- `FX65` `LD VX, [I]` (R191) -/
  | ldVxMem (x : Reg)
  /-- `8XY7`, unrecognized (R86, R87) -/
  | unrec8xy7 (x y : Reg)
  /-- `8XY8`, unrecognized (R86) -/
  | unrec8xy8 (x y : Reg)
  /-- `8XY9`, unrecognized (R86) -/
  | unrec8xy9 (x y : Reg)
  /-- `8XYA`, unrecognized (R86) -/
  | unrec8xyA (x y : Reg)
  /-- `8XYB`, unrecognized (R86) -/
  | unrec8xyB (x y : Reg)
  /-- `8XYC`, unrecognized (R86) -/
  | unrec8xyC (x y : Reg)
  /-- `8XYD`, unrecognized (R86) -/
  | unrec8xyD (x y : Reg)
  /-- `8XYF`, unrecognized (R86) -/
  | unrec8xyF (x y : Reg)
  /-- `0NNN` that is neither `CLS` nor `RET`, unrecognized (R84, R86) -/
  | unrec0 (nnn : Addr12)
  /-- `EXNN` with `NN` neither `9E` nor `A1`, unrecognized (R86) -/
  | unrecE (x : Reg) (nn : Byte)
  /-- `FXNN` with `NN` none of the nine sub-opcodes, unrecognized (R86) -/
  | unrecF (x : Reg) (nn : Byte)
deriving DecidableEq, Repr

end Sys2Proof
end

