-- ==== Sys2Proof/Decode.lean ====
section
/-! DEFINITION. The fields of a word (spec/30_encoding.md R81), the dispatcher (R83, R84, R85) and the encoder written
from the same table. -/

namespace Sys2Proof

/-! ## Fields of a word (R81) -/

/-- `w[15:12]`, the family. -/
def fieldF (w : Word) : BitVec 4 := w.extractLsb' 12 4
/-- `w[11:8]`. -/
def fieldX (w : Word) : Reg := (w.extractLsb' 8 4).toFin
/-- `w[7:4]`. -/
def fieldY (w : Word) : Reg := (w.extractLsb' 4 4).toFin
/-- `w[3:0]` as bits: the sub-opcode of family 8. -/
def fieldN (w : Word) : BitVec 4 := w.extractLsb' 0 4
/-- `w[7:0]`. -/
def fieldNN (w : Word) : Byte := w.extractLsb' 0 8
/-- `w[11:0]`. -/
def fieldNNN (w : Word) : Addr12 := w.extractLsb' 0 12

/-! ## Dispatch (R83) -/

/-- Family 0 under the reading `m` of `FAMILY0_MATCH` (R84). -/
def decode0 (m : Family0Match) (w : Word) : Instr :=
  match m with
  | .fullWord =>
    if w = 0x00E0#16 then .cls else if w = 0x00EE#16 then .ret else .unrec0 (fieldNNN w)
  | .lowByte =>
    if fieldNN w = 0xE0#8 then .cls else if fieldNN w = 0xEE#8 then .ret else .unrec0 (fieldNNN w)
  | .lowNibble =>
    if fieldN w = 0x0#4 then .cls else if fieldN w = 0xE#4 then .ret else .unrec0 (fieldNNN w)

/-- Family 8, on the low nibble (R83, R87). -/
def decode8 (w : Word) : Instr :=
  match fieldN w with
  | 0x0#4 => .ldReg (fieldX w) (fieldY w)
  | 0x1#4 => .orReg (fieldX w) (fieldY w)
  | 0x2#4 => .andReg (fieldX w) (fieldY w)
  | 0x3#4 => .xorReg (fieldX w) (fieldY w)
  | 0x4#4 => .addReg (fieldX w) (fieldY w)
  | 0x5#4 => .subReg (fieldX w) (fieldY w)
  | 0x6#4 => .shr (fieldX w) (fieldY w)
  | 0x7#4 => .unrec8xy7 (fieldX w) (fieldY w)
  | 0x8#4 => .unrec8xy8 (fieldX w) (fieldY w)
  | 0x9#4 => .unrec8xy9 (fieldX w) (fieldY w)
  | 0xA#4 => .unrec8xyA (fieldX w) (fieldY w)
  | 0xB#4 => .unrec8xyB (fieldX w) (fieldY w)
  | 0xC#4 => .unrec8xyC (fieldX w) (fieldY w)
  | 0xD#4 => .unrec8xyD (fieldX w) (fieldY w)
  | 0xE#4 => .shl (fieldX w) (fieldY w)
  | _ => .unrec8xyF (fieldX w) (fieldY w)

/-- Family E, on the low byte (R83). -/
def decodeE (w : Word) : Instr :=
  match fieldNN w with
  | 0x9E#8 => .skp (fieldX w)
  | 0xA1#8 => .sknp (fieldX w)
  | nn => .unrecE (fieldX w) nn

/-- Family F, on the low byte (R83). -/
def decodeF (w : Word) : Instr :=
  match fieldNN w with
  | 0x07#8 => .ldVxDt (fieldX w)
  | 0x0A#8 => .ldVxK (fieldX w)
  | 0x15#8 => .ldDtVx (fieldX w)
  | 0x18#8 => .ldStVx (fieldX w)
  | 0x1E#8 => .addIVx (fieldX w)
  | 0x29#8 => .ldFVx (fieldX w)
  | 0x33#8 => .ldBVx (fieldX w)
  | 0x55#8 => .ldMemVx (fieldX w)
  | 0x65#8 => .ldVxMem (fieldX w)
  | nn => .unrecF (fieldX w) nn

/-- The dispatcher: total, every word is one instruction or one unrecognized form (R83). Families 5 and 9 ignore the
low nibble (R85). -/
def decodeWord (m : Family0Match) (w : Word) : Instr :=
  match fieldF w with
  | 0x0#4 => decode0 m w
  | 0x1#4 => .jp (fieldNNN w)
  | 0x2#4 => .call (fieldNNN w)
  | 0x3#4 => .seImm (fieldX w) (fieldNN w)
  | 0x4#4 => .sneImm (fieldX w) (fieldNN w)
  | 0x5#4 => .seReg (fieldX w) (fieldY w)
  | 0x6#4 => .ldImm (fieldX w) (fieldNN w)
  | 0x7#4 => .addImm (fieldX w) (fieldNN w)
  | 0x8#4 => decode8 w
  | 0x9#4 => .sneReg (fieldX w) (fieldY w)
  | 0xA#4 => .ldI (fieldNNN w)
  | 0xB#4 => .jpV0 (fieldNNN w)
  | 0xC#4 => .rnd (fieldX w) (fieldNN w)
  | 0xD#4 => .drw (fieldX w) (fieldY w) (fieldN w).toFin
  | 0xE#4 => decodeE w
  | _ => decodeF w

/-! ## Bytes (R60, R80) -/

/-- Why a byte list holds no instruction: it is shorter than the one word every instruction is (R80). -/
inductive DecodeError
  | noBytes
  | secondByteMissing
deriving DecidableEq, Repr

/-- The word of two bytes, the first in bits 15..8 (R60). -/
def wordOfBytes (hi lo : Byte) : Word := hi ++ lo

/-- The two bytes of a word as they lie in memory, the first at the lower address (R60). -/
def bytesOfWord (w : Word) : List Byte := [w.extractLsb' 8 8, w.extractLsb' 0 8]

/-- Decodes the instruction at the head of a byte list and gives the bytes after it; rejects by name a list that is
shorter than one word (R80). -/
def decodeBytes (m : Family0Match) : List Byte → Except DecodeError (Instr × List Byte)
  | [] => .error .noBytes
  | [_] => .error .secondByteMissing
  | hi :: lo :: rest => .ok (decodeWord m (wordOfBytes hi lo), rest)

/-- The instruction the decoder reads, under the default `FAMILY0_MATCH = full_word` (R84), from the word whose bits
are the low `nbits` bits of `w`. -/
def decodeTableWord (nbits w : Nat) : Option Instr :=
  match decodeBytes .fullWord (bytesOfWord (BitVec.ofNat 16 (w % 2 ^ nbits))) with
  | .ok (i, _) => some i
  | .error _ => none

/-! ## The encoder, from the same table -/

/-- A register number as its 4-bit field. -/
def regBits (x : Reg) : BitVec 4 := BitVec.ofFin x

/-- Format `NNN` (R81). -/
def formNNN (f : BitVec 4) (nnn : Addr12) : Word := f ++ nnn
/-- Formats `XNN` and `Xs` (R81). -/
def formXNN (f : BitVec 4) (x : Reg) (nn : Byte) : Word := f ++ regBits x ++ nn
/-- Formats `XY`, `XYs` and `XYN` (R81). -/
def formXYN (f : BitVec 4) (x y : Reg) (n : BitVec 4) : Word := f ++ regBits x ++ regBits y ++ n

/-- The word of an instruction: `match` of its row of the opcode table with its fields; the ignored low nibble of
families 5 and 9 is 0, the canonical spelling (R85). -/
def encode : Instr → Word
  | .cls => 0x00E0#16
  | .ret => 0x00EE#16
  | .jp nnn => formNNN 0x1#4 nnn
  | .call nnn => formNNN 0x2#4 nnn
  | .seImm x nn => formXNN 0x3#4 x nn
  | .sneImm x nn => formXNN 0x4#4 x nn
  | .seReg x y => formXYN 0x5#4 x y 0x0#4
  | .ldImm x nn => formXNN 0x6#4 x nn
  | .addImm x nn => formXNN 0x7#4 x nn
  | .ldReg x y => formXYN 0x8#4 x y 0x0#4
  | .orReg x y => formXYN 0x8#4 x y 0x1#4
  | .andReg x y => formXYN 0x8#4 x y 0x2#4
  | .xorReg x y => formXYN 0x8#4 x y 0x3#4
  | .addReg x y => formXYN 0x8#4 x y 0x4#4
  | .subReg x y => formXYN 0x8#4 x y 0x5#4
  | .shr x y => formXYN 0x8#4 x y 0x6#4
  | .shl x y => formXYN 0x8#4 x y 0xE#4
  | .sneReg x y => formXYN 0x9#4 x y 0x0#4
  | .ldI nnn => formNNN 0xA#4 nnn
  | .jpV0 nnn => formNNN 0xB#4 nnn
  | .rnd x nn => formXNN 0xC#4 x nn
  | .drw x y n => formXYN 0xD#4 x y (BitVec.ofFin n)
  | .skp x => formXNN 0xE#4 x 0x9E#8
  | .sknp x => formXNN 0xE#4 x 0xA1#8
  | .ldVxDt x => formXNN 0xF#4 x 0x07#8
  | .ldVxK x => formXNN 0xF#4 x 0x0A#8
  | .ldDtVx x => formXNN 0xF#4 x 0x15#8
  | .ldStVx x => formXNN 0xF#4 x 0x18#8
  | .addIVx x => formXNN 0xF#4 x 0x1E#8
  | .ldFVx x => formXNN 0xF#4 x 0x29#8
  | .ldBVx x => formXNN 0xF#4 x 0x33#8
  | .ldMemVx x => formXNN 0xF#4 x 0x55#8
  | .ldVxMem x => formXNN 0xF#4 x 0x65#8
  | .unrec8xy7 x y => formXYN 0x8#4 x y 0x7#4
  | .unrec8xy8 x y => formXYN 0x8#4 x y 0x8#4
  | .unrec8xy9 x y => formXYN 0x8#4 x y 0x9#4
  | .unrec8xyA x y => formXYN 0x8#4 x y 0xA#4
  | .unrec8xyB x y => formXYN 0x8#4 x y 0xB#4
  | .unrec8xyC x y => formXYN 0x8#4 x y 0xC#4
  | .unrec8xyD x y => formXYN 0x8#4 x y 0xD#4
  | .unrec8xyF x y => formXYN 0x8#4 x y 0xF#4
  | .unrec0 nnn => formNNN 0x0#4 nnn
  | .unrecE x nn => formXNN 0xE#4 x nn
  | .unrecF x nn => formXNN 0xF#4 x nn

/-- The bytes of an instruction, in memory order. -/
def encodeBytes (i : Instr) : List Byte := bytesOfWord (encode i)

end Sys2Proof
end

