-- ==== Sys2Proof/Machine/State.lean ====
section
/-! DEFINITION. The state of the core (spec/10_state.md, spec/20_memory.md), its faults (spec/60_exceptions.md R222),
what crosses the host boundary (R239, R250), and the machine right after reset (R38, R270). -/

namespace Sys2Proof.Machine

/-- The five faults of R222. They are the spec's own stops at accesses its source leaves unchecked. Safe: the model
stops where the reference goes on in an undefined way (log 5). -/
inductive Fault
  /-- Code 1. Raised by the fetch of any instruction with `PC > 0xFFE`; records `PC` (R62). Safe. -/
  | fetchOutOfRange (pc : Word)
  /-- Code 2. Raised by `DXYN`, `FX33`, `FX55`, `FX65` when their byte range passes `0xFFF`; records the lowest
  address above `0xFFF` (R64). Safe. -/
  | memOutOfRange (a : Nat)
  /-- Code 3. Raised by `DXYN` for the first set sprite bit outside `64 × 32`; records the pixel (R165). Safe. -/
  | drawOutOfRange (x y : Nat)
  /-- Code 4. Raised by `2NNN` with `SP = 16`; records its `PC` (R28). Safe. -/
  | stackOverflow (pc : Word)
  /-- Code 5. Raised by `00EE` with `SP = 0`; records its `PC` (R28). Safe. -/
  | stackUnderflow (pc : Word)
deriving DecidableEq, Repr

/-- The spec's codes of the faults (R222). -/
def Fault.code : Fault → Nat
  | .fetchOutOfRange _ => 1
  | .memOutOfRange _ => 2
  | .drawOutOfRange _ _ => 3
  | .stackOverflow _ => 4
  | .stackUnderflow _ => 5

/-- Why the model gives no meaning. -/
inductive Refusal
  /-- Raised by an arm of `exec` whose instruction has no meaning yet. Safe. No arm raises it. -/
  | notModelled (mnemonic : String)
  /-- Raised by a step whose input `now` lies before the tick of the iteration before it: the host broke its duty,
  and R250 has a model refuse such an input. Safe. -/
  | hostTimeDecreased
  /-- Raised by `CXNN` when the prescribed `rnd` is above `NN`: the host broke its duty, and R250 has a model refuse
  such an input. Safe. -/
  | hostRandomAboveMask
  /-- Raised by a step of a terminated run: "When `run ≠ Running` there is no step" (R236, R242). Safe. -/
  | runTerminated
  /-- Raised by a reset with an image longer than `ROM_MAX` (R57, R270). Safe. -/
  | romTooLong
deriving DecidableEq, Repr

/-- `run` (R35). -/
inductive RunState
  | running
  | terminated
  | faulted (f : Fault)
deriving DecidableEq, Repr

/-- How R221 identifies an `Unrecognized` event: by the family of its word. -/
inductive UnrecognizedCode
  | u0
  | u8
  | uE
  | uF
deriving DecidableEq, Repr

/-- What an iteration sends to the boundary (R239). -/
inductive Output
  /-- The event `Unrecognized(pc, w)` on the logging channel (R221). -/
  | unrecognized (code : UnrecognizedCode) (pc w : Word)
  /-- The gate level of a timer tick: `playSound()` when true, `stopSound()` when false (R232). -/
  | audioGate (level : Bool)
  /-- `draw(framebuffer, width, height)` with the byte view of the framebuffer (R30, R238). -/
  | frame (bytes : Vector Byte 2048) (width height : Nat)
  /-- The transition to `Terminated`, after which the boundary releases its resources (R242). -/
  | terminated
deriving DecidableEq, Repr

/-- The host's inputs to one iteration (R250). -/
structure HostInput where
  /-- The tick count. -/
  now : Int
  /-- The key currently held, if any. -/
  pkey : Option Key
  /-- The rate hint. -/
  hint : RateHint
  /-- The quit request. -/
  quit : Bool
  /-- The random byte; none where the state prescribes none, and then `CXNN` draws a free value (log 4). -/
  rnd : Option Byte
deriving DecidableEq, Repr

/-- Memory as the cells that differ from what an unlisted address reads as (`Memory.base`), addresses rising. -/
abbrev Memory := List Host.Cell

/-- `FB[x][y]`, column `x` in `0..63` then row `y` in `0..31` (R30). -/
abbrev Framebuffer := Vector (Vector Bool 32) 64

/-- Everything the spec gives the core (`10_state.md`), then the parameters, then the model's own fields for what
crosses the boundary. -/
structure State where
  /-- `V[0]..V[15]` (R20). -/
  v : Vector Byte 16
  /-- `I` (R23). -/
  i : Word
  /-- `PC` (R24). -/
  pc : Word
  /-- `Stack[0..15]` (R27). -/
  stack : Vector Word 16
  /-- `SP`, the entries in use (R27). -/
  sp : Fin 17
  /-- `DT` (R29). -/
  dt : Byte
  /-- `ST` (R29). -/
  st : Byte
  /-- `FB` (R30). -/
  fb : Framebuffer
  /-- `drawn` (R31). -/
  drawn : Bool
  /-- `key` (R32). -/
  key : Option Key
  /-- `clkI` (R33). -/
  clkI : Int
  /-- `clkT` (R33). -/
  clkT : Int
  /-- `offset` (R33). -/
  offset : Nat
  /-- `audio` (R34). -/
  audio : Bool
  /-- `run` (R35). -/
  run : RunState
  /-- `M` (R50), over `Memory.base cfg.font`. -/
  mem : Memory
  /-- The parameters of R6, which no step writes (log 1). -/
  cfg : Config
  /-- The model's own: the tick of the most recent iteration, `t0` before the first (R250, log 3). -/
  now : Int
  /-- The model's own: the current iteration's random input, if prescribed (R250, log 4). -/
  rnd : Option Byte
  /-- The model's own: the inputs of the iterations to come (R13, log 2). -/
  host : List HostInput
  /-- The model's own: the counter the free values are applied to (log 2). -/
  draws : Nat
  /-- The model's own: the outputs of the current iteration, oldest first (R239, log 6). -/
  outputs : List Output
deriving DecidableEq, Repr

/-- What an instruction or a step answers. -/
abbrev Result := Host.Outcome State Fault Refusal

/-- The reset values of R38 for a configuration and the tick `t0`, with nothing listed in memory: the empty ROM image
of R273, to which `bootReset` adds an image. -/
def State.resetWith (cfg : Config) (t0 : Int) : State where
  v := Vector.replicate 16 0
  i := 0
  pc := 0x200
  stack := Vector.replicate 16 0
  sp := 0
  dt := 0
  st := 0
  fb := Vector.replicate 64 (Vector.replicate 32 false)
  drawn := false
  key := none
  clkI := t0
  clkT := t0
  offset := 0
  audio := false
  run := .running
  mem := []
  cfg := cfg
  now := t0
  rnd := none
  host := []
  draws := 0
  outputs := []

/-- The machine right after reset (R270) with no program, the default configuration and `t0 = 0` (log 1, log 8). -/
def State.reset : State := State.resetWith Config.default 0

end Sys2Proof.Machine
end

