-- ==== Sys2Proof/Machine/Flags.lean ====
section
/-! DEFINITION. Every flag computation of the machine: the values `VF` is given (spec/10_state.md R21). -/

namespace Sys2Proof.Machine

/-- A condition as the flag value 1 or 0. -/
def flagOf (c : Bool) : Byte := if c then 1 else 0

/-- Carry: 1 if the exact sum exceeds `0xFF` (spec/41_register_alu.md R139, spec/90_conflicts.md C3). -/
def carryFlag (a b : Byte) : Byte := flagOf (decide (0xFF < a.toNat + b.toNat))

/-- Not-borrow: 1 if `a ≥ b` (R140, C3). -/
def noBorrowFlag (a b : Byte) : Byte := flagOf (decide (b.toNat ≤ a.toNat))

/-- `v[0]`, the bit a right shift by one drops (R141, C2). -/
def lowBitFlag (v : Byte) : Byte := flagOf (v.getLsbD 0)

/-- `v[7]` as 0 or 1, the bit a left shift by one drops (R142). -/
def highBitFlag (v : Byte) : Byte := flagOf (v.getLsbD 7)

/-- Collision: 1 if a set pixel was turned off (spec/42_display.md R162, R164). -/
def collisionFlag (collision : Bool) : Byte := flagOf collision

end Sys2Proof.Machine
end

