-- ==== Sys2Proof/Machine/Framebuffer.lean ====
section
/-! DEFINITION. The framebuffer and the XOR blit (spec/10_state.md R30, spec/42_display.md R161–R165). -/

namespace Sys2Proof.Machine

/-- `FB[x][y]`; false outside `64 × 32`, where no instruction reads (R30, R165). -/
def Framebuffer.pixel (fb : Framebuffer) (x y : Nat) : Bool :=
  if h : x < 64 ∧ y < 32 then (fb[x]'h.1)[y]'h.2 else false

/-- `FB[x][y] <- not FB[x][y]` (R162). -/
def Framebuffer.toggle (fb : Framebuffer) (x y : Nat) : Framebuffer :=
  if h : x < 64 ∧ y < 32 then
    fb.set x ((fb[x]'h.1).set y (!(fb[x]'h.1)[y]'h.2) h.2) h.1
  else fb

/-- Every pixel unset (R160). -/
def Framebuffer.clear : Framebuffer := Vector.replicate 64 (Vector.replicate 32 false)

/-- The byte view: `FBbytes[y·64 + x] = 0xFF if FB[x][y] else 0x00` (R30). -/
def Framebuffer.bytes (fb : Framebuffer) : Vector Byte 2048 :=
  Vector.ofFn fun k => if fb.pixel (k.val % 64) (k.val / 64) then 0xFF else 0x00

/-- The pixels of the set bits of one sprite byte on row `y`, columns in ascending order: bit 7 is column `x0` (R163). -/
def rowPixels (x0 y : Nat) (row : Byte) : List (Nat × Nat) :=
  (List.range 8).filterMap fun c => if row.getLsbD (7 - c) then some (x0 + c, y) else none

/-- The pixels of the set bits of a sprite whose top row is `y`, rows and then columns in ascending order (R162). -/
def spritePixels (x0 y : Nat) : List Byte → List (Nat × Nat)
  | [] => []
  | row :: rows => rowPixels x0 y row ++ spritePixels x0 (y + 1) rows

/-- A pixel outside `64 × 32` (R165). -/
def offScreen (p : Nat × Nat) : Bool := decide (64 ≤ p.1) || decide (32 ≤ p.2)

/-- Toggles the pixels one after another; the flag turns true when a pixel was set before its toggle (R162, R164). -/
def blitPixels : List (Nat × Nat) → Framebuffer → Bool → Framebuffer × Bool
  | [], fb, collision => (fb, collision)
  | p :: ps, fb, collision => blitPixels ps (fb.toggle p.1 p.2) (collision || fb.pixel p.1 p.2)

end Sys2Proof.Machine
end

