-- ==== Sys2Proof/Machine/Memory.lean ====
section
/-! DEFINITION. The one address space (spec/20_memory.md): reset contents, the read and write of one byte, and the
canonical form of the list that holds it. -/

namespace Sys2Proof.Machine

/-- What an address that nothing has written reads as: the font at `0x050..0x09F`, zero elsewhere (R58). -/
def Memory.base (font : Vector Byte 80) (a : Nat) : Byte :=
  if h : 0x050 ≤ a ∧ a < 0x0A0 then font[a - 0x050]'(by omega) else 0

/-- `M[a]` (R50, R66). -/
def Memory.read (font : Vector Byte 80) (m : Memory) (a : Nat) : Byte :=
  match m with
  | [] => Memory.base font a
  | c :: rest => if c.1 = a then c.2 else Memory.read font rest a

/-- Puts the cell `(a, b)` before the first cell of a higher address. -/
def Memory.place (a : Nat) (b : Byte) (m : Memory) : Memory :=
  match m with
  | [] => [(a, b)]
  | c :: rest => if a < c.1 then (a, b) :: c :: rest else c :: Memory.place a b rest

/-- `M[a] <- b` (R11, R66): the cell of `a` is replaced; none is listed where `b` is what `a` reads as unlisted. -/
def Memory.write (font : Vector Byte 80) (m : Memory) (a : Nat) (b : Byte) : Memory :=
  let others := m.filter fun c => c.1 != a
  if b = Memory.base font a then others else Memory.place a b others

/-- Addresses strictly rising. -/
def Memory.rising : Memory → Bool
  | [] => true
  | c :: rest => rest.all (fun d => c.1 < d.1) && Memory.rising rest

/-- The canonical form: addresses strictly rising, each inside `0x000..0xFFF`, and no cell equal to what its address
reads as unlisted. -/
def Memory.wf (font : Vector Byte 80) (m : Memory) : Bool :=
  Memory.rising m && m.all fun c => decide (c.1 < 0x1000) && (c.2 != Memory.base font c.1)

end Sys2Proof.Machine
end

