-- ==== Sys2Proof/Machine/Operands.lean ====
section
/-! DEFINITION. What an instruction computes from its operands: zero extension, 8-bit arithmetic, addresses, decimal
digits, the key comparison and the range of a memory access. -/

namespace Sys2Proof.Machine

/-- `zext_16(NNN)` (spec/30_encoding.md R82). -/
def addr16 (nnn : Addr12) : Word := nnn.setWidth 16

/-- `zext_16` of a register value (R82). -/
def byte16 (b : Byte) : Word := b.setWidth 16

/-- `(a + b) mod 256`, from the exact sum (spec/41_register_alu.md R130, R134, R139). -/
def addByte (a b : Byte) : Byte := BitVec.ofNat 8 (a.toNat + b.toNat)

/-- `(a − b) mod 256`, from the exact difference (R130, R140). -/
def subByte (a b : Byte) : Byte := BitVec.ofInt 8 ((a.toNat : Int) - (b.toNat : Int))

/-- `v >> 1` (R141). -/
def shrByte (v : Byte) : Byte := BitVec.ofNat 8 (v.toNat / 2)

/-- `(v << 1) mod 256` (R142). -/
def shlByte (v : Byte) : Byte := BitVec.ofNat 8 (v.toNat * 2)

/-- `zext_16(V0) + zext_16(NNN)`, at most `0x10FE`, not reduced to 12 bits (spec/40_control_flow.md R109). -/
def jumpV0Target (v0 : Byte) (nnn : Addr12) : Word := BitVec.ofNat 16 (v0.toNat + nnn.toNat)

/-- `(I + zext_16(VX)) mod 2^16` (spec/43_keys_timers_memory.md R187). -/
def addIndex (i : Word) (b : Byte) : Word := BitVec.ofNat 16 (i.toNat + b.toNat)

/-- `FONT_BASE + GLYPH_H · zext_16(VX)`, with no mask on `VX` (R188). -/
def glyphAddress (b : Byte) : Word := BitVec.ofNat 16 (0x050 + 5 * b.toNat)

/-- Hundreds, tens and units of a byte (R189). -/
def bcdDigits (b : Byte) : List Byte :=
  [BitVec.ofNat 8 (b.toNat / 100), BitVec.ofNat 8 (b.toNat / 10 % 10), BitVec.ofNat 8 (b.toNat % 10)]

/-- `pressed(v)`: a key is held and its number is the full 8-bit `v` (R180). -/
def pressed (key : Option Key) (b : Byte) : Bool :=
  match key with
  | none => false
  | some k => decide (k.val = b.toNat)

/-- A key number as a register value (R184). -/
def keyByte (k : Key) : Byte := BitVec.ofNat 8 k.val

/-- The lowest address above `0xFFF` among `base .. base + n − 1`, if there is one (spec/20_memory.md R64). -/
def firstBeyond (base n : Nat) : Option Nat :=
  if 0 < n ∧ 0xFFF < base + n - 1 then some (max base 0x1000) else none

end Sys2Proof.Machine
end

