-- ==== Sys2Proof/Machine/Ops.lean ====
section
/-! DEFINITION. The named operations over registers, stack, memory, framebuffer and outputs, and the one operation
that takes a fault. -/

namespace Sys2Proof.Machine

/-! ## Registers (spec/10_state.md R20–R26) -/

/-- `V[x]` (R10). -/
def State.reg (s : State) (x : Reg) : Byte := s.v[x.val]

/-- `V[x] <- b` (R10). No register is hard-wired (R20). -/
def State.setReg (s : State) (x : Reg) (b : Byte) : State := { s with v := s.v.set x.val b }

/-- `V[F] <- b` (R21). -/
def State.setFlag (s : State) (b : Byte) : State := s.setReg regF b

/-- `I <- w` (R23). -/
def State.setI (s : State) (w : Word) : State := { s with i := w }

/-- `PC <- w` (R24). -/
def State.setPc (s : State) (w : Word) : State := { s with pc := w }

/-- The result `Advance`: `PC <- (PC + 2) mod 2^16` (R25). The result `Hold` is the state as it stands. -/
def State.advance (s : State) : State := s.setPc (s.pc + 2)

/-- A skip taken on `c`, then `Advance` (spec/40_control_flow.md R101). -/
def State.skipIf (s : State) (c : Bool) : State := (if c then s.setPc (s.pc + 2) else s).advance

/-- `DT <- b` (R29). -/
def State.setDt (s : State) (b : Byte) : State := { s with dt := b }

/-- `ST <- b` (R29). -/
def State.setSt (s : State) (b : Byte) : State := { s with st := b }

/-- `FB <- fb` and `drawn <- true`: every change of the framebuffer marks it drawn (R31). -/
def State.draw (s : State) (fb : Framebuffer) : State := { s with fb := fb, drawn := true }

/-- `log(e)` and every other output of R239. -/
def State.emit (s : State) (o : Output) : State := { s with outputs := s.outputs ++ [o] }

/-! ## The return stack (R27, R28) -/

/-- `Stack[k]`. -/
def State.stackEntry (s : State) (k : Fin 16) : Word := s.stack[k.val]

/-- `Push(w)`: `Stack[SP] <- w; SP <- SP + 1`, none when `SP = 16` (R28). -/
def State.push (s : State) (w : Word) : Option State :=
  if h : s.sp.val < 16 then
    some { s with stack := s.stack.set s.sp.val w h, sp := ⟨s.sp.val + 1, by omega⟩ }
  else none

/-- `Pop()`: `SP <- SP − 1; return Stack[SP]`, none when `SP = 0`; the entry stays in the stack (R28). -/
def State.pop (s : State) : Option (Word × State) :=
  if _h : s.sp.val = 0 then none
  else some (s.stack[s.sp.val - 1]'(by omega), { s with sp := ⟨s.sp.val - 1, by omega⟩ })

/-! ## Memory (spec/20_memory.md) -/

/-- `MemRead(a, 1)` inside the space (R11). -/
def State.readByte (s : State) (a : Nat) : Byte := Memory.read s.cfg.font s.mem a

/-- `MemWrite(a, 1, b)` inside the space (R11). -/
def State.writeByte (s : State) (a : Nat) (b : Byte) : State :=
  { s with mem := Memory.write s.cfg.font s.mem a b }

/-- The `n` bytes from `base`, in ascending order. -/
def State.readBytes (s : State) (base n : Nat) : List Byte :=
  (List.range n).map fun k => s.readByte (base + k)

/-- Writes bytes from `base` on, in ascending order. -/
def State.writeBytes (s : State) (base : Nat) : List Byte → State
  | [] => s
  | b :: bs => (s.writeByte base b).writeBytes (base + 1) bs

/-- `V[0] .. V[x]`, in order (spec/43_keys_timers_memory.md R190). -/
def State.regsUpTo (s : State) (x : Reg) : List Byte := s.v.toList.take (x.val + 1)

/-- `for k in 0 .. n−1: V[k] <- MemRead(base + k, 1)`, in ascending order. -/
def State.loadBytes (s : State) (base : Nat) : Nat → State
  | 0 => s
  | k + 1 =>
    if h : k < 16 then (s.loadBytes base k).setReg ⟨k, h⟩ (s.readByte (base + k)) else s.loadBytes base k

/-- `for k in 0 .. x: V[k] <- MemRead(base + k, 1)` (R191). -/
def State.loadRegs (s : State) (x : Reg) (base : Nat) : State := s.loadBytes base (x.val + 1)

/-- `Fetch(PC)`: the big-endian word at `PC`, or the fault when its second byte would lie past `0xFFF`; at any
address, even or odd (R60, R61, R62). -/
def State.fetch (s : State) : Except Fault Word :=
  if 0xFFE < s.pc.toNat then .error (.fetchOutOfRange s.pc)
  else .ok (wordOfBytes (s.readByte s.pc.toNat) (s.readByte (s.pc.toNat + 1)))

/-! ## Unrecognized words and faults -/

/-- The identification of an `Unrecognized` event by the family of its word (spec/60_exceptions.md R221). -/
def unrecognizedCode (w : Word) : UnrecognizedCode :=
  match fieldF w with
  | 0x0#4 => .u0
  | 0x8#4 => .u8
  | 0xE#4 => .uE
  | _ => .uF

/-- `log(Unrecognized(PC, w))`: no register, memory byte, timer, pixel or flag changes (spec/30_encoding.md R86). -/
def State.logUnrecognized (s : State) (w : Word) : State :=
  s.emit (.unrecognized (unrecognizedCode w) s.pc w)

/-- Taking a fault: `run <- Faulted(code, info)` and nothing else; the machine has no handler, no saved state and no
return (R220, R223, R224). -/
def State.takeFault (s : State) (f : Fault) : State := { s with run := .faulted f }

end Sys2Proof.Machine
end

