-- ==== Sys2Proof/Machine/Alu.lean ====
section
/-! DEFINITION. Register loads and arithmetic (spec/41_register_alu.md R130–R144). Operands are read at entry; `VX`,
then `VY`, then `VF` are written (R131). -/

namespace Sys2Proof.Machine

/-- `LD VX, NN` (R133). -/
def execLdImm (x : Reg) (nn : Byte) (s : State) : Result := .next (s.setReg x nn).advance

/-- `ADD VX, NN` (R134): no flag. -/
def execAddImm (x : Reg) (nn : Byte) (s : State) : Result :=
  .next (s.setReg x (addByte (s.reg x) nn)).advance

/-- `LD VX, VY` (R135). -/
def execLdReg (x y : Reg) (s : State) : Result := .next (s.setReg x (s.reg y)).advance

/-- `OR VX, VY` (R136). -/
def execOr (x y : Reg) (s : State) : Result := .next (s.setReg x (s.reg x ||| s.reg y)).advance

/-- `AND VX, VY` (R137). -/
def execAnd (x y : Reg) (s : State) : Result := .next (s.setReg x (s.reg x &&& s.reg y)).advance

/-- `XOR VX, VY` (R138). -/
def execXor (x y : Reg) (s : State) : Result := .next (s.setReg x (s.reg x ^^^ s.reg y)).advance

/-- `ADD VX, VY` (R139): the carry is written last. -/
def execAddReg (x y : Reg) (s : State) : Result :=
  .next ((s.setReg x (addByte (s.reg x) (s.reg y))).setFlag (carryFlag (s.reg x) (s.reg y))).advance

/-- `SUB VX, VY` (R140): the not-borrow is written last. -/
def execSub (x y : Reg) (s : State) : Result :=
  .next ((s.setReg x (subByte (s.reg x) (s.reg y))).setFlag (noBorrowFlag (s.reg x) (s.reg y))).advance

/-- `SHR VX, VY` (R141): the source is `VY`, which is overwritten by the bit shifted out. -/
def execShr (x y : Reg) (s : State) : Result :=
  .next (((s.setReg x (shrByte (s.reg y))).setReg y (lowBitFlag (s.reg y))).setFlag (lowBitFlag (s.reg y))).advance

/-- `SHL VX, VY` (R142): the mirror of `SHR`. -/
def execShl (x y : Reg) (s : State) : Result :=
  .next (((s.setReg x (shlByte (s.reg y))).setReg y (highBitFlag (s.reg y))).setFlag (highBitFlag (s.reg y))).advance

/-- `LD I, NNN` (R143). -/
def execLdI (nnn : Addr12) (s : State) : Result := .next (s.setI (addr16 nnn)).advance

/-- `RND VX, NN` (R144): `VX` receives the iteration's `rnd`, `0 ≤ rnd ≤ NN`. A prescribed byte above `NN` breaks the
host's duty and is refused (R250); where none is prescribed the byte is a free value in `[0, NN]` (log 4). -/
def execRnd (x : Reg) (nn : Byte) (s : State) : Result :=
  match s.rnd with
  | some r => if r ≤ nn then .next (s.setReg x r).advance else .refused .hostRandomAboveMask
  | none =>
    .next ({ s with draws := s.draws + 1 }.setReg x (BitVec.ofNat 8 (Config.hostRandom s.draws nn).val)).advance

end Sys2Proof.Machine
end

