-- ==== Sys2Proof/Machine/ControlFlow.lean ====
section
/-! DEFINITION. Return, jumps, call and conditional skips (spec/40_control_flow.md R100–R109). -/

namespace Sys2Proof.Machine

/-- `RET` (R102): the popped call-site address, then `Advance`. -/
def execRet (s : State) : Result :=
  match s.pop with
  | none => .fault (.stackUnderflow s.pc)
  | some (a, t) => .next (t.setPc a).advance

/-- `JP NNN` (R103). -/
def execJp (nnn : Addr12) (s : State) : Result := .next (s.setPc (addr16 nnn))

/-- `CALL NNN` (R104): pushes its own address. -/
def execCall (nnn : Addr12) (s : State) : Result :=
  match s.push s.pc with
  | none => .fault (.stackOverflow s.pc)
  | some t => .next (t.setPc (addr16 nnn))

/-- `SE VX, NN` (R105). -/
def execSeImm (x : Reg) (nn : Byte) (s : State) : Result := .next (s.skipIf (s.reg x == nn))

/-- `SNE VX, NN` (R106). -/
def execSneImm (x : Reg) (nn : Byte) (s : State) : Result := .next (s.skipIf (s.reg x != nn))

/-- `SE VX, VY` (R107). -/
def execSeReg (x y : Reg) (s : State) : Result := .next (s.skipIf (s.reg x == s.reg y))

/-- `SNE VX, VY` (R108). -/
def execSneReg (x y : Reg) (s : State) : Result := .next (s.skipIf (s.reg x != s.reg y))

/-- `JP V0, NNN` (R109). -/
def execJpV0 (nnn : Addr12) (s : State) : Result := .next (s.setPc (jumpV0Target (s.reg 0) nnn))

end Sys2Proof.Machine
end

