-- ==== Sys2Proof/Machine/Display.lean ====
section
/-! DEFINITION. Clear and sprite draw (spec/42_display.md R160–R166). -/

namespace Sys2Proof.Machine

/-- `CLS` (R160). -/
def execCls (s : State) : Result := .next (s.draw Framebuffer.clear).advance

/-- The pixels a `DXYN` toggles: those of the set bits of the `N` sprite bytes at `I`, with the top left corner at
the full 8-bit values of `VX` and `VY` (R161, R163). -/
def State.drawnPixels (s : State) (x y : Reg) (n : Fin 16) : List (Nat × Nat) :=
  spritePixels (s.reg x).toNat (s.reg y).toNat (s.readBytes s.i.toNat n.val)

/-- `DRW VX, VY, N` (R162): the memory check, then the screen check (R166), then the blit, then the flag. -/
def execDrw (x y : Reg) (n : Fin 16) (s : State) : Result :=
  match firstBeyond s.i.toNat n.val with
  | some a => .fault (.memOutOfRange a)
  | none =>
    match (s.drawnPixels x y n).find? offScreen with
    | some p => .fault (.drawOutOfRange p.1 p.2)
    | none =>
      .next ((s.draw (blitPixels (s.drawnPixels x y n) s.fb false).1).setFlag
        (collisionFlag (blitPixels (s.drawnPixels x y n) s.fb false).2)).advance

end Sys2Proof.Machine
end

