-- ==== Sys2Proof/Machine/KeysTimersMemory.lean ====
section
/-! DEFINITION. Key skips, timers, key wait, index and memory (spec/43_keys_timers_memory.md R180–R191). -/

namespace Sys2Proof.Machine

/-- `SKP VX` (R181). -/
def execSkp (x : Reg) (s : State) : Result := .next (s.skipIf (pressed s.key (s.reg x)))

/-- `SKNP VX` (R182). -/
def execSknp (x : Reg) (s : State) : Result := .next (s.skipIf (!pressed s.key (s.reg x)))

/-- `LD VX, DT` (R183). -/
def execLdVxDt (x : Reg) (s : State) : Result := .next (s.setReg x s.dt).advance

/-- `LD VX, K` (R184): holds while no key is pressed. -/
def execLdVxK (x : Reg) (s : State) : Result :=
  match s.key with
  | none => .next s
  | some k => .next (s.setReg x (keyByte k)).advance

/-- `LD DT, VX` (R185). -/
def execLdDtVx (x : Reg) (s : State) : Result := .next (s.setDt (s.reg x)).advance

/-- `LD ST, VX` (R186): the audio gate does not change here. -/
def execLdStVx (x : Reg) (s : State) : Result := .next (s.setSt (s.reg x)).advance

/-- `ADD I, VX` (R187): no flag. -/
def execAddIVx (x : Reg) (s : State) : Result := .next (s.setI (addIndex s.i (s.reg x))).advance

/-- `LD F, VX` (R188). -/
def execLdFVx (x : Reg) (s : State) : Result := .next (s.setI (glyphAddress (s.reg x))).advance

/-- `LD B, VX` (R189). -/
def execLdBVx (x : Reg) (s : State) : Result :=
  match firstBeyond s.i.toNat 3 with
  | some a => .fault (.memOutOfRange a)
  | none => .next (s.writeBytes s.i.toNat (bcdDigits (s.reg x))).advance

/-- `LD [I], VX` (R190): `I` is unchanged. -/
def execLdMemVx (x : Reg) (s : State) : Result :=
  match firstBeyond s.i.toNat (x.val + 1) with
  | some a => .fault (.memOutOfRange a)
  | none => .next (s.writeBytes s.i.toNat (s.regsUpTo x)).advance

/-- `LD VX, [I]` (R191): `I` is unchanged. -/
def execLdVxMem (x : Reg) (s : State) : Result :=
  match firstBeyond s.i.toNat (x.val + 1) with
  | some a => .fault (.memOutOfRange a)
  | none => .next (s.loadRegs x s.i.toNat).advance

end Sys2Proof.Machine
end

