-- ==== Sys2Proof/Machine/Unrecognized.lean ====
section
/-! DEFINITION. The unrecognized words (spec/30_encoding.md R86, R87): each is logged with its address and its word;
families 0 and 8 then `Advance`, families E and F `Hold`. -/

namespace Sys2Proof.Machine

/-- `log(Unrecognized(PC, w))`, then `Advance` (R86). -/
def logAndAdvance (w : Word) (s : State) : Result := .next (s.logUnrecognized w).advance

/-- `log(Unrecognized(PC, w))`, then `Hold` (R86). -/
def logAndHold (w : Word) (s : State) : Result := .next (s.logUnrecognized w)

/-- `8XY7` (R86, R87). -/
def execUnrec8xy7 (x y : Reg) (s : State) : Result := logAndAdvance (encode (.unrec8xy7 x y)) s

/-- `8XY8` (R86). -/
def execUnrec8xy8 (x y : Reg) (s : State) : Result := logAndAdvance (encode (.unrec8xy8 x y)) s

/-- `8XY9` (R86). -/
def execUnrec8xy9 (x y : Reg) (s : State) : Result := logAndAdvance (encode (.unrec8xy9 x y)) s

/-- `8XYA` (R86). -/
def execUnrec8xyA (x y : Reg) (s : State) : Result := logAndAdvance (encode (.unrec8xyA x y)) s

/-- `8XYB` (R86). -/
def execUnrec8xyB (x y : Reg) (s : State) : Result := logAndAdvance (encode (.unrec8xyB x y)) s

/-- `8XYC` (R86). -/
def execUnrec8xyC (x y : Reg) (s : State) : Result := logAndAdvance (encode (.unrec8xyC x y)) s

/-- `8XYD` (R86). -/
def execUnrec8xyD (x y : Reg) (s : State) : Result := logAndAdvance (encode (.unrec8xyD x y)) s

/-- `8XYF` (R86). -/
def execUnrec8xyF (x y : Reg) (s : State) : Result := logAndAdvance (encode (.unrec8xyF x y)) s

/-- `0NNN` outside `CLS` and `RET` (R84, R86). -/
def execUnrec0 (nnn : Addr12) (s : State) : Result := logAndAdvance (encode (.unrec0 nnn)) s

/-- `EXNN` outside `EX9E` and `EXA1` (R86). -/
def execUnrecE (x : Reg) (nn : Byte) (s : State) : Result := logAndHold (encode (.unrecE x nn)) s

/-- `FXNN` outside the nine instructions of family F (R86). -/
def execUnrecF (x : Reg) (nn : Byte) (s : State) : Result := logAndHold (encode (.unrecF x nn)) s

end Sys2Proof.Machine
end

