-- ==== Sys2Proof/Machine/Scheduler.lean ====
section
/-! DEFINITION. The dual-rate scheduler, the timer tick and audio gate, the blit, the poll and the host's inputs
(spec/60_exceptions.md R229–R242, R250). -/

namespace Sys2Proof.Machine

/-! ## Cadences (R229–R231) -/

/-- `ready(clk, now, P)`: whether the cadence fires, and its marker afterwards (R229). -/
def ready (clk now : Int) (period : Nat) : Bool × Int :=
  if now - clk ≥ (period : Int) then (true, clk + (period : Int)) else (false, clk)

/-- `T_INSTR0 + offset` (R230). -/
def State.instrPeriod (s : State) : Nat := s.cfg.tInstr0 + s.offset

/-- Whether the instruction cadence fires at the iteration's `now` (R230). -/
def State.instrFires (s : State) : Bool := (ready s.clkI s.now s.instrPeriod).1

/-- The marker of the instruction cadence after its check (R229, R230). -/
def State.checkInstr (s : State) : State := { s with clkI := (ready s.clkI s.now s.instrPeriod).2 }

/-! ## Timer tick (R231, R232) -/

/-- A timer counts down to 0 and stays there (R29). -/
def countDown (b : Byte) : Byte := if b = 0 then 0 else BitVec.ofNat 8 (b.toNat - 1)

/-- `TimerTick()`: the gate from `ST` before the decrement, then both timers, then the gate is presented (R232). -/
def State.timerTick (s : State) : State :=
  { s with audio := s.st != 0, dt := countDown s.dt, st := countDown s.st }.emit (.audioGate (s.st != 0))

/-- The timer cadence check, with the fixed period `T_TIMER`, and its tick (R231). -/
def State.timerPhase (s : State) : State :=
  match ready s.clkT s.now s.cfg.tTimer with
  | (true, clk) => { s with clkT := clk }.timerTick
  | (false, clk) => { s with clkT := clk }

/-! ## Frame (R238) -/

/-- `if drawn then Blit()`: hands the byte view over and clears `drawn`. -/
def State.framePhase (s : State) : State :=
  if s.drawn then { s with drawn := false }.emit (.frame s.fb.bytes 64 32) else s

/-! ## Poll (R234, R240–R242) -/

/-- `adjust(offset, hint)` (R234). -/
def adjustOffset (cfg : Config) (offset : Nat) (hint : RateHint) : Nat :=
  match hint with
  | .none => offset
  | .slower => min (offset + cfg.offsetStep) cfg.offsetMax
  | .faster => offset - cfg.offsetStep

/-- `if quit then run <- Terminated`, which the boundary is told (R239, R242). -/
def State.quitIf (s : State) (quit : Bool) : State :=
  if quit then { s with run := .terminated }.emit .terminated else s

/-- The poll: key, then offset, then quit (R236). -/
def State.pollPhase (s : State) (inp : HostInput) : State :=
  { s with key := inp.pkey, offset := adjustOffset s.cfg s.offset inp.hint }.quitIf inp.quit

/-! ## Inputs (R13, R250) -/

/-- The inputs of the next iteration: the first of the list, or free values that meet R250 where the list is empty
(log 2). -/
def State.nextInput (s : State) : HostInput :=
  match s.host with
  | inp :: _ => inp
  | [] =>
    { now := s.now + (Config.hostElapsed s.draws : Int), pkey := Config.hostKey s.draws
      hint := Config.hostHint s.draws, quit := Config.hostQuit s.draws, rnd := none }

/-- Begins an iteration: its inputs are taken and its outputs are still empty. -/
def State.accept (s : State) (inp : HostInput) : State :=
  { s with
    now := inp.now
    rnd := inp.rnd
    host := s.host.tail
    draws := if s.host.isEmpty then s.draws + 1 else s.draws
    outputs := [] }

end Sys2Proof.Machine
end

