-- ==== Sys2Proof/Machine/Iterate.lean ====
section
/-! DEFINITION. One instruction (spec/60_exceptions.md R237), one iteration of the run loop (R236), the reset with a
program (spec/70_reset_and_hazards.md R270), and the placing of one word where the next step fetches. -/

namespace Sys2Proof.Machine

/-- `ExecuteOne`: fetch, decode, execute; a meaning advances `PC` itself where its rule returns `Advance` (R237). -/
def executeOne (s : State) : Result :=
  match s.fetch with
  | .error f => .fault f
  | .ok w => exec (decodeWord s.cfg.family0 w) s

/-- What an iteration does after its instruction: timer cadence, frame, poll (R236). -/
def State.finish (s : State) (inp : HostInput) : State := (s.timerPhase.framePhase).pollPhase inp

/-- `Iterate(now, poll, rnd)` (R236). A fault ends the iteration with `run = Faulted` and nothing else changed but
`clkI` (R223, R224). -/
def iterate (s : State) (inp : HostInput) : Result :=
  let t := (s.accept inp).checkInstr
  if (s.accept inp).instrFires then
    match executeOne t with
    | .next u => .next (u.finish inp)
    | .fault f => .next (t.takeFault f)
    | .refused r => .refused r
  else .next (t.finish inp)

/-- An iteration of a running machine, if its inputs keep the host's duty that `now` never decreases (R250). -/
def runIteration (s : State) : Result :=
  if s.nextInput.now < s.now then .refused .hostTimeDecreased else iterate s s.nextInput

/-- `Reset(ROM, FONT, t0)`: the reset values, the image verbatim from `0x200`, or a refusal of an image longer than
`ROM_MAX` (R57, R58, R270). -/
def bootReset (rom : List Byte) (cfg : Config) (t0 : Int) : Result :=
  if 3584 < rom.length then .refused .romTooLong
  else .next ((State.resetWith cfg t0).writeBytes 0x200 rom)

/-- The inputs of an iteration in which the instruction cadence fires: the earliest such tick that is not before the
last one; no key, no hint, no quit and no prescribed random byte. -/
def State.firingInput (s : State) : HostInput where
  now := max s.now (s.clkI + (s.instrPeriod : Int))
  pkey := s.key
  hint := .none
  quit := false
  rnd := none

/-- Stores a word where the next step fetches and makes that step run it: the two bytes at `PC` (at `0x200` where `PC`
lies outside memory), a running machine, and a first input at which the instruction cadence fires. -/
def State.placeFetchWord (s : State) (w : Word) : State :=
  let t := if 0xFFE < s.pc.toNat then s.setPc 0x200 else s
  { t.writeBytes t.pc.toNat (bytesOfWord w) with run := .running, host := t.firingInput :: t.host }

end Sys2Proof.Machine
end

