-- ==== Sys2Proof/Machine/Step.lean ====
section
/-! DEFINITION. One step of the machine: one iteration of the run loop (spec/60_exceptions.md R236). -/

namespace Sys2Proof.Machine

/-- While `run = Running` a step is one iteration. `Faulted` and `Terminated` are absorbing: there is no step, and the
machine answers that fault, or that the run has ended (R35, R224, R236, R242; log 5). -/
def step (s : State) : Host.Outcome State Fault Refusal :=
  match s.run with
  | .running => runIteration s
  | .faulted f => .fault f
  | .terminated => .refused .runTerminated

/-- The state with the word of the low `nbits` bits of `w` stored where the next step fetches, so that this step runs
it (log 8). -/
def State.withFetchWord (s : State) (nbits w : Nat) : State :=
  s.placeFetchWord (BitVec.ofNat 16 (w % 2 ^ nbits))

end Sys2Proof.Machine
end

