-- ==== Sys2Proof/WellFormed.lean ====
section
/-! DEFINITION. Which terms of `Instr` stand for a word: the three fallback rows of the table exclude the words of
their family that an instruction row matches (spec/30_encoding.md R83, R84, R86). -/

namespace Sys2Proof

/-- The family-0 words `0NNN` that `CLS` or `RET` matches, by `FAMILY0_MATCH` (R84). -/
def family0Matched (m : Family0Match) (nnn : Addr12) : Bool :=
  match m with
  | .fullWord => nnn == 0x0E0#12 || nnn == 0x0EE#12
  | .lowByte => nnn.extractLsb' 0 8 == 0xE0#8 || nnn.extractLsb' 0 8 == 0xEE#8
  | .lowNibble => nnn.extractLsb' 0 4 == 0x0#4 || nnn.extractLsb' 0 4 == 0xE#4

/-- The two sub-opcodes of family E (R83). -/
def familyEMatched (nn : Byte) : Bool := nn == 0x9E#8 || nn == 0xA1#8

/-- The nine sub-opcodes of family F (R83). -/
def familyFMatched (nn : Byte) : Bool :=
  [0x07#8, 0x0A#8, 0x15#8, 0x18#8, 0x1E#8, 0x29#8, 0x33#8, 0x55#8, 0x65#8].contains nn

/-- A term that some word decodes to under `m`. Every instruction row is well-formed with every operand; an
unrecognized form of families 0, E and F is so only outside the instruction rows of its family. -/
def Instr.wellFormed (m : Family0Match) : Instr → Bool
  | .cls | .ret => true
  | .jp _ | .call _ | .ldI _ | .jpV0 _ => true
  | .seImm _ _ | .sneImm _ _ | .ldImm _ _ | .addImm _ _ | .rnd _ _ => true
  | .seReg _ _ | .sneReg _ _ => true
  | .ldReg _ _ | .orReg _ _ | .andReg _ _ | .xorReg _ _ | .addReg _ _ | .subReg _ _ | .shr _ _ | .shl _ _ => true
  | .drw _ _ _ => true
  | .skp _ | .sknp _ => true
  | .ldVxDt _ | .ldVxK _ | .ldDtVx _ | .ldStVx _ | .addIVx _ | .ldFVx _ | .ldBVx _ | .ldMemVx _ | .ldVxMem _ => true
  | .unrec8xy7 _ _ | .unrec8xy8 _ _ | .unrec8xy9 _ _ | .unrec8xyA _ _ => true
  | .unrec8xyB _ _ | .unrec8xyC _ _ | .unrec8xyD _ _ | .unrec8xyF _ _ => true
  | .unrec0 nnn => !family0Matched m nnn
  | .unrecE _ nn => !familyEMatched nn
  | .unrecF _ nn => !familyFMatched nn

end Sys2Proof
end

