-- ==== Sys2Proof/Safety.lean ====
section
/-! DEFINITION. The terms the claims use: the invariant of a run, what an instruction may write, what a program can
see, and the sprite bits a `DXYN` draws. -/

namespace Sys2Proof.Machine

/-! ## The invariant of a run -/

/-- What every state of a run satisfies. -/
structure State.Inv (s : State) : Prop where
  /-- Memory is in its canonical form, inside `0x000..0xFFF` (spec/20_memory.md R50). -/
  memory : Memory.wf s.cfg.font s.mem = true
  /-- `0 ≤ offset ≤ OFFSET_MAX` (spec/10_state.md R33). -/
  offset : s.offset ≤ s.cfg.offsetMax
  /-- The instruction cadence's marker is never ahead of time, so no elapsed time is negative (spec/60_exceptions.md R229). -/
  clkI : s.clkI ≤ s.now
  /-- The timer cadence's marker is never ahead of time (R229). -/
  clkT : s.clkT ≤ s.now
  /-- `PC` stays at or below the highest target of `BNNN`, so it never wraps (R26, R109). -/
  pc : s.pc.toNat ≤ 0x10FE
  /-- Every stack entry is an address an instruction was fetched at (R27, R62, R104). -/
  stack : ∀ k : Fin 16, (s.stackEntry k).toNat ≤ 0xFFE
  /-- The periods are at least one tick (R6). -/
  periods : s.cfg.valid

/-! ## What an instruction may write -/

/-- The state only the run loop and the host write: no instruction does (R32–R35, R236, R252). -/
structure State.SameRunLoop (s t : State) : Prop where
  key : t.key = s.key
  clkI : t.clkI = s.clkI
  clkT : t.clkT = s.clkT
  offset : t.offset = s.offset
  audio : t.audio = s.audio
  run : t.run = s.run
  cfg : t.cfg = s.cfg
  now : t.now = s.now
  rnd : t.rnd = s.rnd
  host : t.host = s.host

/-- The 11 unrecognized forms (R86). -/
def unrecognizedForm : Instr → Bool
  | .unrec8xy7 _ _ | .unrec8xy8 _ _ | .unrec8xy9 _ _ | .unrec8xyA _ _ => true
  | .unrec8xyB _ _ | .unrec8xyC _ _ | .unrec8xyD _ _ | .unrec8xyF _ _ => true
  | .unrec0 _ | .unrecE _ _ | .unrecF _ _ => true
  | .cls | .ret | .jp _ | .call _ | .ldI _ | .jpV0 _ => false
  | .seImm _ _ | .sneImm _ _ | .ldImm _ _ | .addImm _ _ | .rnd _ _ | .seReg _ _ | .sneReg _ _ => false
  | .ldReg _ _ | .orReg _ _ | .andReg _ _ | .xorReg _ _ | .addReg _ _ | .subReg _ _ | .shr _ _ | .shl _ _ => false
  | .drw _ _ _ | .skp _ | .sknp _ => false
  | .ldVxDt _ | .ldVxK _ | .ldDtVx _ | .ldStVx _ | .addIVx _ | .ldFVx _ | .ldBVx _ | .ldMemVx _ | .ldVxMem _ => false

/-- The unrecognized forms that return `Hold` (R86). -/
def holdsPc : Instr → Bool
  | .unrecE _ _ | .unrecF _ _ => true
  | _ => false

/-- The registers an instruction may write (spec/10_state.md R22): `VX`, and `VY` for the shifts, and `VF` for the
flag writers; `V0..VX` for `FX65`. -/
def mayWriteReg (i : Instr) (r : Reg) : Bool :=
  match i with
  | .ldImm x _ | .addImm x _ | .rnd x _ | .ldVxDt x | .ldVxK x => r == x
  | .ldReg x _ | .orReg x _ | .andReg x _ | .xorReg x _ => r == x
  | .addReg x _ | .subReg x _ => r == x || r == regF
  | .shr x y | .shl x y => r == x || r == y || r == regF
  | .drw _ _ _ => r == regF
  | .ldVxMem x => decide (r ≤ x)
  | _ => false

/-- The instructions that write `I` (R23). -/
def mayWriteI : Instr → Bool
  | .ldI _ | .addIVx _ | .ldFVx _ => true
  | _ => false

/-- The instructions that use the stack (R27). -/
def mayUseStack : Instr → Bool
  | .call _ | .ret => true
  | _ => false

/-- The instructions that write the framebuffer and the drawn flag (R30, R31). -/
def mayDraw : Instr → Bool
  | .cls | .drw _ _ _ => true
  | _ => false

/-- The instructions that write memory (spec/20_memory.md R71). -/
def mayStore : Instr → Bool
  | .ldBVx _ | .ldMemVx _ => true
  | _ => false

/-! ## What a program can see -/

/-- Two states that agree on all an instruction can read and differ at most in time, the cadences, the offset, the
timing parameters, the drawn flag, the audio gate, the run state, the inputs to come and the outputs
(spec/10_state.md R37, spec/70_reset_and_hazards.md R288). -/
structure State.SameView (s t : State) : Prop where
  v : s.v = t.v
  i : s.i = t.i
  pc : s.pc = t.pc
  stack : s.stack = t.stack
  sp : s.sp = t.sp
  dt : s.dt = t.dt
  st : s.st = t.st
  fb : s.fb = t.fb
  key : s.key = t.key
  mem : s.mem = t.mem
  font : s.cfg.font = t.cfg.font
  family0 : s.cfg.family0 = t.cfg.family0
  rnd : s.rnd = t.rnd
  draws : s.draws = t.draws

/-- Two results that agree in kind, in the fault or refusal, and in what a program can see. -/
def SameViewResult : Result → Result → Prop
  | .next s, .next t => s.SameView t
  | .fault f, .fault g => f = g
  | .refused r, .refused q => r = q
  | _, _ => False

/-! ## Sprites (spec/42_display.md R161–R163) -/

/-- Whether `DXYN` would toggle the pixel `(px, py)`: it lies in the 8 columns from `VX` and the `N` rows from `VY`,
and its bit, most significant first, of the sprite byte of its row is set. -/
def State.spriteBit (s : State) (x y : Reg) (n : Fin 16) (px py : Nat) : Bool :=
  decide ((s.reg x).toNat ≤ px ∧ px < (s.reg x).toNat + 8 ∧ (s.reg y).toNat ≤ py ∧ py < (s.reg y).toNat + n.val) &&
    (s.readByte (s.i.toNat + (py - (s.reg y).toNat))).getLsbD (7 - (px - (s.reg x).toNat))

/-! ## Scheduler -/

/-- A series of cadence checks with a constant period: how many fire, and the marker after the last (R229, R233). -/
def cadenceChecks (clk : Int) (period : Nat) : List Int → Nat × Int
  | [] => (0, clk)
  | now :: later =>
    let r := cadenceChecks (ready clk now period).2 period later
    ((if (ready clk now period).1 then 1 else 0) + r.1, r.2)

/-- An output that hands a frame over (R238). -/
def isFrame : Output → Bool
  | .frame _ _ _ => true
  | _ => false

end Sys2Proof.Machine
end

