-- ==== Sys2Proof/Certificates/Slice0/Obligations.lean ====
section
/-! DEFINITION. The statements for the provers: what the spec's rules say of the instructions and of the machine. -/

open Sys2Proof Sys2Proof.Machine

/-- Under the default FAMILY0_MATCH = full_word one word of every family, written out from its row of the table and from
the vectors of 95_test_vectors.md, decodes to its instruction with its operands. (30_encoding.md §2, §4,
95_test_vectors.md §2, opcode_table.json) -/
def Obligations.TableWordsDecodeToTheirInstructions : Prop :=
    decodeWord .fullWord 0x00E0 = .cls ∧ decodeWord .fullWord 0x00EE = .ret ∧
    decodeWord .fullWord 0x0123 = .unrec0 0x123 ∧
    decodeWord .fullWord 0x1ABC = .jp 0xABC ∧ decodeWord .fullWord 0x2400 = .call 0x400 ∧
    decodeWord .fullWord 0x3A42 = .seImm 10 0x42 ∧ decodeWord .fullWord 0x4A42 = .sneImm 10 0x42 ∧
    decodeWord .fullWord 0x5127 = .seReg 1 2 ∧ decodeWord .fullWord 0x6A5C = .ldImm 10 0x5C ∧
    decodeWord .fullWord 0x7AFF = .addImm 10 0xFF ∧ decodeWord .fullWord 0x8125 = .subReg 1 2 ∧
    decodeWord .fullWord 0x812E = .shl 1 2 ∧ decodeWord .fullWord 0x8127 = .unrec8xy7 1 2 ∧
    decodeWord .fullWord 0x912F = .sneReg 1 2 ∧ decodeWord .fullWord 0xA123 = .ldI 0x123 ∧
    decodeWord .fullWord 0xBFFF = .jpV0 0xFFF ∧ decodeWord .fullWord 0xC30F = .rnd 3 0x0F ∧
    decodeWord .fullWord 0xD015 = .drw 0 1 5 ∧ decodeWord .fullWord 0xE29E = .skp 2 ∧
    decodeWord .fullWord 0xE2A2 = .unrecE 2 0xA2 ∧ decodeWord .fullWord 0xF333 = .ldBVx 3 ∧
    decodeWord .fullWord 0xF0FF = .unrecF 0 0xFF

/-- For every reading m of FAMILY0_MATCH and every instruction i that is well-formed under m, with every operand at every
value, decodeWord m (encode i) = i; and the byte decoder gives i and the bytes after it from the two bytes of i in
memory order followed by any bytes. (30_encoding.md §1–§3, 20_memory.md §4, opcode_table.json) -/
def Obligations.DecodeOfEncodeIsTheInstruction : Prop :=
    ∀ (m : Family0Match) (i : Instr), i.wellFormed m = true →
      decodeWord m (encode i) = i ∧
      ∀ rest : List Byte, decodeBytes m (encodeBytes i ++ rest) = .ok (i, rest)

/-- Every word decodes, under every FAMILY0_MATCH, to a well-formed instruction or unrecognized form. Encoding it gives
the word back, except in families 5 and 9, which ignore the low nibble, and for the words that the readings low_byte
and low_nibble match as CLS or RET, which ignore bits of those two; the unrecognized words of family 0 come back under
every reading, and so do 0x00E0 and 0x00EE. (30_encoding.md §2 (R83, R84, R85)) -/
def Obligations.EveryWordDecodesToOneWellFormedForm : Prop :=
    ∀ (m : Family0Match) (w : Word),
      (decodeWord m w).wellFormed m = true ∧
      (fieldF w ≠ 0x5#4 → fieldF w ≠ 0x9#4 →
        (m = .fullWord ∨ w = 0x00E0#16 ∨ w = 0x00EE#16 ∨ (decodeWord m w ≠ .cls ∧ decodeWord m w ≠ .ret)) →
        encode (decodeWord m w) = w)

/-- For every X, Y and every low nibble N, the word 5XYN decodes to SE VX, VY and the word 9XYN to SNE VX, VY. This rests
on the spec's decision D14. (30_encoding.md §2 (R85), 92_eei_decisions.md D14) -/
def Obligations.FamiliesFiveAndNineIgnoreTheLowNibble : Prop :=
    ∀ (m : Family0Match) (x y : Reg) (n : BitVec 4),
      decodeWord m (0x5#4 ++ regBits x ++ regBits y ++ n) = .seReg x y ∧
      decodeWord m (0x9#4 ++ regBits x ++ regBits y ++ n) = .sneReg x y

/-- All three readings decode 0x00E0 to CLS and 0x00EE to RET, and every family-0 word whose low nibble is neither 0 nor E
to the unrecognized form. A family-0 word decodes to CLS exactly when the whole word, its low byte or its low nibble
is that of 00E0, by the reading, and likewise to RET. This rests on the spec's decision D13. (30_encoding.md §2 (R84),
92_eei_decisions.md D13) -/
def Obligations.FamilyZeroReadings : Prop :=
    ∀ m : Family0Match,
      decodeWord m 0x00E0 = .cls ∧ decodeWord m 0x00EE = .ret ∧
      ∀ w : Word, fieldF w = 0x0#4 →
        ((fieldN w ≠ 0x0#4 ∧ fieldN w ≠ 0xE#4) → decodeWord m w = .unrec0 (fieldNNN w)) ∧
        (decodeWord m w = .cls ↔
          match m with
          | .fullWord => w = 0x00E0
          | .lowByte => fieldNN w = 0xE0
          | .lowNibble => fieldN w = 0x0) ∧
        (decodeWord m w = .ret ↔
          match m with
          | .fullWord => w = 0x00EE
          | .lowByte => fieldNN w = 0xEE
          | .lowNibble => fieldN w = 0xE)

/-- For every image of at most ROM_MAX bytes, every configuration and every tick t0, reset gives V, I, Stack, SP, DT, ST
and FB zero, PC = 0x200, drawn false, no key, clkI = clkT = t0, offset 0, audio off, run = Running, the configuration
as given, and memory that holds the font at 0x050..0x09F, the image from 0x200 on and zero elsewhere. PC, drawn, key,
the markers, audio and the zero bytes rest on the spec's decisions D3, D4, D5, D23, D26, D30, D34. (10_state.md §12
(R38), 20_memory.md §3 (R57, R58), 70_reset_and_hazards.md §1 (R270)) -/
def Obligations.BootResetGivesTheResetValues : Prop :=
    ∀ (rom : List Byte) (cfg : Config) (t0 : Int), rom.length ≤ 3584 →
      ∃ s, bootReset rom cfg t0 = .next s ∧
        (∀ x : Reg, s.reg x = 0) ∧ s.i = 0 ∧ s.pc = 0x200 ∧ (∀ k : Fin 16, s.stackEntry k = 0) ∧ s.sp = 0 ∧
        s.dt = 0 ∧ s.st = 0 ∧ (∀ x y, s.fb.pixel x y = false) ∧ s.drawn = false ∧ s.key = none ∧
        s.clkI = t0 ∧ s.clkT = t0 ∧ s.offset = 0 ∧ s.audio = false ∧ s.run = .running ∧ s.cfg = cfg ∧
        (∀ k (h : k < rom.length), s.readByte (0x200 + k) = rom[k]) ∧
        (∀ k (h : k < 80), s.readByte (0x050 + k) = cfg.font[k]) ∧
        (∀ a, (a < 0x050 ∨ (0x0A0 ≤ a ∧ a < 0x200) ∨ 0x200 + rom.length ≤ a) → s.readByte a = 0)

/-- State.reset is what reset gives for the empty image, the model's default configuration and t0 = 0 (the model's
choices, logs 1 and 8). An image longer than ROM_MAX has no run: it is refused (the spec's decision D29).
(70_reset_and_hazards.md §1 (R270), 20_memory.md §3 (R57), 92_eei_decisions.md D29) -/
def Obligations.ResetIsTheEmptyImageAndLongImagesAreRefused : Prop :=
    bootReset [] Config.default 0 = .next State.reset ∧
    ∀ (rom : List Byte) (cfg : Config) (t0 : Int), 3584 < rom.length → bootReset rom cfg t0 = .refused .romTooLong

/-- In a running machine whose next input does not run time back and lets the instruction cadence fire, with PC at most
0xFFE and the two bytes at PC decoding to i: the step takes the inputs, advances clkI by one period and executes i; a
next state goes through the rest of the iteration (finish), a fault is taken in the state before the instruction, a
refusal stays. (60_exceptions.md §4 (R236, R237), 60_exceptions.md §3 (R229, R230), 20_memory.md §4 (R62)) -/
def Obligations.StepRunsTheDecodedInstruction : Prop :=
    ∀ (s : State) (i : Instr), s.run = .running → s.now ≤ s.nextInput.now →
      s.clkI + ((s.cfg.tInstr0 + s.offset : Nat) : Int) ≤ s.nextInput.now → s.pc.toNat ≤ 0xFFE →
      decodeWord s.cfg.family0 (s.readByte s.pc.toNat ++ s.readByte (s.pc.toNat + 1)) = i →
      step s =
        match exec i { s.accept s.nextInput with clkI := s.clkI + ((s.cfg.tInstr0 + s.offset : Nat) : Int) } with
        | .next u => .next (u.finish s.nextInput)
        | .fault f => .next { s.accept s.nextInput with
            clkI := s.clkI + ((s.cfg.tInstr0 + s.offset : Nat) : Int), run := .faulted f }
        | .refused r => .refused r

/-- In a running machine whose cadence fires with PC above 0xFFE, the step only takes the inputs, advances clkI by one
period and sets run to Faulted(FetchOutOfRange, PC). This rests on the spec's decision D8. (20_memory.md §4 (R62),
60_exceptions.md §1 (R222, R223, R224), 92_eei_decisions.md D8) -/
def Obligations.FetchBeyondMemoryFaults : Prop :=
    ∀ s : State, s.run = .running → s.now ≤ s.nextInput.now →
      s.clkI + ((s.cfg.tInstr0 + s.offset : Nat) : Int) ≤ s.nextInput.now → 0xFFE < s.pc.toNat →
      step s = .next { s.accept s.nextInput with
        clkI := s.clkI + ((s.cfg.tInstr0 + s.offset : Nat) : Int), run := .faulted (.fetchOutOfRange s.pc) }

/-- For every state with PC at most 0xFFE, even or odd, the fetched word w has w[15:8] = M[PC] and w[7:0] = M[PC+1]. (R60) -/
def Obligations.FetchIsBigEndian : Prop :=
    ∀ s : State, s.pc.toNat ≤ 0xFFE →
      ∃ w, s.fetch = .ok w ∧ w.extractLsb' 8 8 = s.readByte s.pc.toNat ∧
        w.extractLsb' 0 8 = s.readByte (s.pc.toNat + 1)

/-- In a running machine whose next input does not run time back and comes before clkI plus the period, the step is the
rest of the iteration alone: no fetch, no instruction, clkI unchanged. (60_exceptions.md §3 (R230), 60_exceptions.md
§4 (R236)) -/
def Obligations.NoInstructionUntilTheCadenceFires : Prop :=
    ∀ s : State, s.run = .running → s.now ≤ s.nextInput.now →
      s.nextInput.now < s.clkI + ((s.cfg.tInstr0 + s.offset : Nat) : Int) →
      step s = .next ((s.accept s.nextInput).finish s.nextInput)

/-- A step of a faulted machine answers its fault, a step of a terminated machine is refused by name (the model's form of
'there is no step', log 5), and a running machine refuses an input whose now is before the last one. (60_exceptions.md
§1, §4, §5 (R224, R236, R242, R250), 10_state.md §10 (R35)) -/
def Obligations.StoppedRunsAndBackwardTimeHaveNoStep : Prop :=
    ∀ s : State,
      (∀ f, s.run = .faulted f → step s = .fault f) ∧
      (s.run = .terminated → step s = .refused .runTerminated) ∧
      (s.run = .running → s.nextInput.now < s.now → step s = .refused .hostTimeDecreased)

/-- For every state and input, the rest of the iteration: if now − clkT is at least T_TIMER, clkT moves by T_TIMER, audio
becomes ST ≠ 0, DT and ST count down to no less than 0 and the gate is output; a drawn frame is output and drawn
cleared; key, offset and a quit follow the poll; outputs come in that order; V, I, PC, Stack, SP, FB, memory, clkI,
configuration and the inputs are unchanged. The gate's timing rests on the spec's decision D23, the order on D24.
(60_exceptions.md §3, §4 (R231, R232, R234, R236, R238, R241, R242)) -/
def Obligations.RestOfIterationIsTickFramePoll : Prop :=
    ∀ (s : State) (inp : HostInput),
      let tick : Bool := decide (s.clkT + (s.cfg.tTimer : Int) ≤ s.now)
      s.finish inp =
        { s with
          clkT := if tick then s.clkT + (s.cfg.tTimer : Int) else s.clkT
          audio := if tick then decide (s.st ≠ 0) else s.audio
          dt := if tick ∧ s.dt ≠ 0 then s.dt - 1 else s.dt
          st := if tick ∧ s.st ≠ 0 then s.st - 1 else s.st
          drawn := false
          key := inp.pkey
          offset := match inp.hint with
            | .none => s.offset
            | .slower => min (s.offset + s.cfg.offsetStep) s.cfg.offsetMax
            | .faster => s.offset - s.cfg.offsetStep
          run := if inp.quit then .terminated else s.run
          outputs := s.outputs ++ (if tick then [.audioGate (decide (s.st ≠ 0))] else []) ++
            (if s.drawn then [.frame s.fb.bytes 64 32] else []) ++ (if inp.quit then [.terminated] else []) }

/-- For every marker, time and period: the check fires exactly when now − clk ≥ P; if it fires the marker becomes clk + P,
otherwise it stays. (R229) -/
def Obligations.CadenceCheckFiresOncePerPeriod : Prop :=
    ∀ (clk now : Int) (P : Nat),
      ((ready clk now P).1 = true ↔ now - clk ≥ (P : Int)) ∧
      (now - clk ≥ (P : Int) → (ready clk now P).2 = clk + (P : Int)) ∧
      (now - clk < (P : Int) → (ready clk now P).2 = clk)

/-- For every list of check times: at most as many checks fire as there are; the marker ends at clk plus the fires times
the period, so no elapsed time is lost; if each check has a full period of backlog before it, every check fires; and
at 2.5 periods two checks fire and a third shortly after does not (the source's example). (60_exceptions.md §3 (R233),
95_test_vectors.md §3 (S3)) -/
def Obligations.CadenceBacklogIsNeverDiscarded : Prop :=
    (∀ (clk : Int) (P : Nat) (times : List Int),
      (cadenceChecks clk P times).1 ≤ times.length ∧
      (cadenceChecks clk P times).2 = clk + (((cadenceChecks clk P times).1 * P : Nat) : Int) ∧
      ((∀ j (h : j < times.length), (P : Int) ≤ times[j] - (clk + ((j * P : Nat) : Int))) →
        (cadenceChecks clk P times).1 = times.length)) ∧
    cadenceChecks 0 10 [25, 25, 26] = (2, 20)

/-- If a step answers a next state and its input comes before clkT plus T_TIMER, then audio and clkT are as before and no
gate level is output. The rule's timing of the gate is the spec's decision D23. (10_state.md §9 (R34),
60_exceptions.md §3 (R231, R232)) -/
def Obligations.AudioGateMovesOnlyAtTimerTicks : Prop :=
    ∀ s t : State, step s = .next t → s.nextInput.now < s.clkT + (s.cfg.tTimer : Int) →
      t.audio = s.audio ∧ t.clkT = s.clkT ∧ ∀ level, Output.audioGate level ∉ t.outputs

/-- If a step answers a next state that is not faulted, it is Terminated exactly when its poll requested a quit, and the
step after a terminated state is refused (the model's form of 'there is no step', log 5), so nothing changes after it.
(60_exceptions.md §4 (R236, R242)) -/
def Obligations.QuitTerminatesAtTheEndOfTheIteration : Prop :=
    ∀ s t : State, step s = .next t →
      ((∀ f, t.run ≠ .faulted f) → (t.run = .terminated ↔ s.nextInput.quit = true)) ∧
      (t.run = .terminated → s.nextInput.quit = true ∧ step t = .refused .runTerminated)

/-- If a step answers a next state that is not faulted, its key is the one the step's poll reported and its offset the
adjustment of the offset before by the poll's hint; the instruction of that step saw the key of the state before.
Levels and hint values rest on the spec's decisions D2 and D5. (60_exceptions.md §4 (R240, R241, R234),
70_reset_and_hazards.md §2 (R276)) -/
def Obligations.PollSetsKeyAndOffsetAfterTheInstruction : Prop :=
    ∀ s t : State, step s = .next t → (∀ f, t.run ≠ .faulted f) →
      t.key = s.nextInput.pkey ∧
      t.offset = (match s.nextInput.hint with
        | .none => s.offset
        | .slower => min (s.offset + s.cfg.offsetStep) s.cfg.offsetMax
        | .faster => s.offset - s.cfg.offsetStep) ∧
      ((s.accept s.nextInput).checkInstr).key = s.key

/-- If a step answers a next state that is not faulted, the byte view of its framebuffer with width 64 and height 32 is
among its outputs exactly when drawn was set before the step or the step executed CLS or DRW; at most one frame is
output, no other frame is, and drawn ends clear. In that view byte y·64 + x is 0xFF for a set pixel and 0x00 for an
unset one (the spec's decision D25). (60_exceptions.md §3, §4 (R230, R236, R238), 10_state.md §6 (R30, R31),
70_reset_and_hazards.md §2 (R280)) -/
def Obligations.FrameIsHandedOverOncePerIteration : Prop :=
    (∀ s t : State, step s = .next t → (∀ f, t.run ≠ .faulted f) →
      t.drawn = false ∧
      (Output.frame t.fb.bytes 64 32 ∈ t.outputs ↔
        s.drawn = true ∨
        (s.clkI + ((s.cfg.tInstr0 + s.offset : Nat) : Int) ≤ s.nextInput.now ∧
          mayDraw (decodeWord s.cfg.family0 (s.readByte s.pc.toNat ++ s.readByte (s.pc.toNat + 1))) = true)) ∧
      (t.outputs.filter isFrame).length ≤ 1 ∧
      ∀ bytes w h, Output.frame bytes w h ∈ t.outputs → bytes = t.fb.bytes ∧ w = 64 ∧ h = 32) ∧
    ∀ (fb : Framebuffer) (x y : Nat) (hx : x < 64) (hy : y < 32),
      fb.bytes[y * 64 + x]'(by omega) = if fb.pixel x y then 0xFF else 0x00

/-- If a running machine's step answers a faulted state, that state is the one before with run = Faulted(f), clkI one
period later and the inputs taken: no register, PC, stack, memory byte, pixel, timer, drawn flag, gate, clkT, key or
offset changed. This rests on the spec's decision D32. That the fields now, rnd, host and draws take the inputs and
that the outputs are emptied is the model's choice (logs 2, 3, 4 and 6), as is the form of a fault as a next state
(log 5). (60_exceptions.md §1 (R223, R224), 92_eei_decisions.md D32) -/
def Obligations.FaultsArePrecise : Prop :=
    ∀ (s t : State) (f : Fault), step s = .next t → t.run = .faulted f →
      t = { s with
        run := .faulted f, clkI := s.clkI + ((s.cfg.tInstr0 + s.offset : Nat) : Int)
        now := s.nextInput.now, rnd := s.nextInput.rnd, host := s.host.tail
        draws := if s.host = [] then s.draws + 1 else s.draws, outputs := [] }

/-- The reset state has canonical memory, an offset within its bound, markers not ahead of time, PC at most 0x10FE, stack
entries at most 0xFFE and periods of at least one tick. (10_state.md §12, 70_reset_and_hazards.md §1) -/
def Obligations.ResetMeetsTheInvariant : Prop :=
    State.reset.Inv

/-- For every image, every configuration with periods of at least one tick and every t0: a state that reset answers
satisfies the invariant. (70_reset_and_hazards.md §1 (R270), 00_scope.md §3 (R6)) -/
def Obligations.BootMeetsTheInvariant : Prop :=
    ∀ (rom : List Byte) (cfg : Config) (t0 : Int) (s : State), cfg.valid → bootReset rom cfg t0 = .next s → s.Inv

/-- From every state that satisfies the invariant, whatever its memory, inputs and configuration, a step that answers a
next state answers one that satisfies it: memory canonical and inside 0x000..0xFFF, 0 ≤ offset ≤ OFFSET_MAX, no
elapsed time negative, PC never above 0x10FE (so it never wraps), every stack entry a fetchable address, and the
periods legal. (10_state.md §3, §4, §8 (R26, R27, R33), 60_exceptions.md §3 (R229), 20_memory.md §1 (R50)) -/
def Obligations.EveryStepKeepsTheInvariant : Prop :=
    ∀ s t : State, s.Inv → step s = .next t → t.Inv

/-- For every instruction and state, if exec answers a next state then key, clkI, clkT, offset, audio, run, the
configuration, now, rnd and the inputs to come are unchanged. (10_state.md §7–§10 (R32, R33, R34, R35),
60_exceptions.md §5 (R252)) -/
def Obligations.InstructionsLeaveTheRunLoopStateAlone : Prop :=
    ∀ (i : Instr) (s t : State), exec i s = .next t → s.SameRunLoop t

/-- For any two states that agree on registers, I, PC, stack, timers, framebuffer, key, memory, font, FAMILY0_MATCH and
random input, and differ in any way in time, markers, offset, timing parameters, drawn, audio, run state, inputs to
come and outputs: every instruction, and the fetch and execution of the instruction at PC, ends the same way in both,
with the same fault or refusal or with next states that agree again. (70_reset_and_hazards.md §3 (R288), 10_state.md
§11 (R37)) -/
def Obligations.ProgramCannotObserveTime : Prop :=
    ∀ s t : State, s.SameView t →
      (∀ i : Instr, SameViewResult (exec i s) (exec i t)) ∧ SameViewResult (executeOne s) (executeOne t)

/-- If exec answers a fault, it is StackOverflow(PC) from CALL with SP = 16, StackUnderflow(PC) from RET with SP = 0,
MemOutOfRange of the lowest address above 0xFFF from DRW, FX33, FX55 or FX65 whose range passes 0xFFF, or
DrawOutOfRange of an off-screen set sprite bit from DRW; the codes are 1 to 5. The faults are the spec's decisions D7,
D8, D10, D11. (60_exceptions.md §1 (R222), 92_eei_decisions.md D7, D8, D10, D11) -/
def Obligations.OnlyListedInstructionsFault : Prop :=
    (∀ (i : Instr) (s : State) (f : Fault), exec i s = .fault f →
      (∃ nnn, i = .call nnn ∧ s.sp.val = 16 ∧ f = .stackOverflow s.pc) ∨
      (i = .ret ∧ s.sp.val = 0 ∧ f = .stackUnderflow s.pc) ∨
      (∃ n : Nat, 0 < n ∧ 0xFFF < s.i.toNat + n - 1 ∧ f = .memOutOfRange (max s.i.toNat 0x1000) ∧
        ((∃ x y m, i = .drw x y m ∧ n = m.val) ∨ (∃ x, i = .ldBVx x ∧ n = 3) ∨
         (∃ x, i = .ldMemVx x ∧ n = x.val + 1) ∨ (∃ x, i = .ldVxMem x ∧ n = x.val + 1))) ∨
      (∃ x y n px py, i = .drw x y n ∧ s.spriteBit x y n px py = true ∧ (64 ≤ px ∨ 32 ≤ py) ∧
        f = .drawOutOfRange px py)) ∧
    ∀ pc a x y, Fault.code (.fetchOutOfRange pc) = 1 ∧ Fault.code (.memOutOfRange a) = 2 ∧
      Fault.code (.drawOutOfRange x y) = 3 ∧ Fault.code (.stackOverflow pc) = 4 ∧ Fault.code (.stackUnderflow pc) = 5

/-- If exec answers a refusal, the instruction is CXNN, the state prescribes a random byte above NN, which breaks the
host's duty, and the refusal says so. (60_exceptions.md §5 (R250), 93_implementation_defined.md K7) -/
def Obligations.OnlyABrokenRandomDutyIsRefused : Prop :=
    ∀ (i : Instr) (s : State) (r : Refusal), exec i s = .refused r →
      ∃ x nn b, i = .rnd x nn ∧ s.rnd = some b ∧ nn < b ∧ r = .hostRandomAboveMask

/-- For every instruction, if exec answers a next state, every register is unchanged but VX of the loads and arithmetic,
VY of the two shifts, VF of ADD, SUB, SHR, SHL and DRW, and V0..VX of FX65. (10_state.md §1 (R21, R22)) -/
def Obligations.RegistersChangeOnlyAsDestinations : Prop :=
    ∀ (i : Instr) (s t : State), exec i s = .next t → ∀ r : Reg, mayWriteReg i r = false → t.reg r = s.reg r

/-- For every instruction, if exec answers a next state: I changes only by ANNN, FX1E, FX29; Stack and SP only by CALL and
RET; DT only by FX15 and ST only by FX18; FB and drawn only by CLS and DRW; every byte of memory only by FX33 and
FX55; the outputs only by the unrecognized forms; and the counter of free values only by CXNN (the model's own field,
log 2). (10_state.md §2, §4, §5, §6 (R23, R27, R29, R30, R31), 20_memory.md §7 (R71), 30_encoding.md §3 (R86)) -/
def Obligations.OtherStateChangesOnlyByItsInstructions : Prop :=
    ∀ (i : Instr) (s t : State), exec i s = .next t →
      (mayWriteI i = false → t.i = s.i) ∧
      (mayUseStack i = false → t.stack = s.stack ∧ t.sp = s.sp) ∧
      ((∀ x, i ≠ .ldDtVx x) → t.dt = s.dt) ∧ ((∀ x, i ≠ .ldStVx x) → t.st = s.st) ∧
      (mayDraw i = false → t.fb = s.fb ∧ t.drawn = s.drawn) ∧
      (mayStore i = false → ∀ a, t.readByte a = s.readByte a) ∧
      (unrecognizedForm i = false → t.outputs = s.outputs) ∧
      ((∀ x nn, i ≠ .rnd x nn) → t.draws = s.draws)

/-- After FX55 or FX33, any state with the memory left by it and PC at most 0xFFE fetches a word of which each byte that
was stored is the stored value (V[k] at I + k for FX55; the hundreds, tens and units of V[X] at I, I + 1, I + 2 for
FX33), and each byte that was not stored is the byte memory held before the store. So a word of which only one byte
was stored is covered. (20_memory.md §4, §6 (R60, R62, R69), 43_keys_timers_memory.md §5 (R189, R190)) -/
def Obligations.StoresAreSeenByTheNextFetch : Prop :=
    ∀ (x : Reg) (s t u : State), u.mem = t.mem → u.cfg = t.cfg → u.pc.toNat ≤ 0xFFE →
      (exec (.ldMemVx x) s = .next t → ∃ hi lo : Byte, u.fetch = .ok (hi ++ lo) ∧
        (∀ k : Reg, k ≤ x → u.pc.toNat = s.i.toNat + k.val → hi = s.reg k) ∧
        (∀ k : Reg, k ≤ x → u.pc.toNat + 1 = s.i.toNat + k.val → lo = s.reg k) ∧
        ((u.pc.toNat < s.i.toNat ∨ s.i.toNat + x.val < u.pc.toNat) → hi = s.readByte u.pc.toNat) ∧
        ((u.pc.toNat + 1 < s.i.toNat ∨ s.i.toNat + x.val < u.pc.toNat + 1) → lo = s.readByte (u.pc.toNat + 1))) ∧
      (exec (.ldBVx x) s = .next t → ∃ hi lo : Byte, u.fetch = .ok (hi ++ lo) ∧
        (u.pc.toNat = s.i.toNat → hi.toNat = (s.reg x).toNat / 100) ∧
        (u.pc.toNat = s.i.toNat + 1 → hi.toNat = (s.reg x).toNat / 10 % 10) ∧
        (u.pc.toNat = s.i.toNat + 2 → hi.toNat = (s.reg x).toNat % 10) ∧
        (u.pc.toNat + 1 = s.i.toNat → lo.toNat = (s.reg x).toNat / 100) ∧
        (u.pc.toNat + 1 = s.i.toNat + 1 → lo.toNat = (s.reg x).toNat / 10 % 10) ∧
        (u.pc.toNat + 1 = s.i.toNat + 2 → lo.toNat = (s.reg x).toNat % 10) ∧
        ((u.pc.toNat < s.i.toNat ∨ s.i.toNat + 2 < u.pc.toNat) → hi = s.readByte u.pc.toNat) ∧
        ((u.pc.toNat + 1 < s.i.toNat ∨ s.i.toNat + 2 < u.pc.toNat + 1) → lo = s.readByte (u.pc.toNat + 1)))

/-- For every X, NN and state, LD VX, NN answers the state with V[X] = NN, PC + 2, and everything else as before; it
raises no fault and with X = F writes VF as a register. (R133) -/
def Obligations.LoadImmediate : Prop :=
    ∀ (x : Reg) (nn : Byte) (s : State), ∃ t, exec (.ldImm x nn) s = .next t ∧
      t.reg x = nn ∧ (∀ r, r ≠ x → t.reg r = s.reg r) ∧ t = { s with v := t.v, pc := s.pc + 2 }

/-- For every X, NN and state, ADD VX, NN answers the state with V[X] = (V[X] + NN) mod 256, PC + 2, every other register
(VF too, unless X = F) and everything else as before. (R134) -/
def Obligations.AddImmediateWrapsWithoutFlag : Prop :=
    ∀ (x : Reg) (nn : Byte) (s : State), ∃ t, exec (.addImm x nn) s = .next t ∧
      (t.reg x).toNat = ((s.reg x).toNat + nn.toNat) % 256 ∧ (∀ r, r ≠ x → t.reg r = s.reg r) ∧
      t = { s with v := t.v, pc := s.pc + 2 }

/-- For every X, Y and state, each of the four answers the state with V[X] the value of V[Y], or the bitwise or, and,
exclusive or of V[X] and V[Y]; PC + 2; every other register and everything else as before. (R135, R136, R137, R138) -/
def Obligations.AssignAndLogic : Prop :=
    ∀ (x y : Reg) (s : State),
      (∃ t, exec (.ldReg x y) s = .next t ∧ t.reg x = s.reg y ∧ (∀ r, r ≠ x → t.reg r = s.reg r) ∧
        t = { s with v := t.v, pc := s.pc + 2 }) ∧
      (∃ t, exec (.orReg x y) s = .next t ∧ t.reg x = s.reg x ||| s.reg y ∧ (∀ r, r ≠ x → t.reg r = s.reg r) ∧
        t = { s with v := t.v, pc := s.pc + 2 }) ∧
      (∃ t, exec (.andReg x y) s = .next t ∧ t.reg x = s.reg x &&& s.reg y ∧ (∀ r, r ≠ x → t.reg r = s.reg r) ∧
        t = { s with v := t.v, pc := s.pc + 2 }) ∧
      (∃ t, exec (.xorReg x y) s = .next t ∧ t.reg x = s.reg x ^^^ s.reg y ∧ (∀ r, r ≠ x → t.reg r = s.reg r) ∧
        t = { s with v := t.v, pc := s.pc + 2 })

/-- For every X, Y and state, ADD VX, VY answers the state with VF = 1 if V[X] + V[Y] > 0xFF else 0, V[X] = (V[X] + V[Y])
mod 256 unless X = F, PC + 2, every other register and everything else as before; with X = F the flag overwrites the
sum. (R139) -/
def Obligations.AddSetsCarry : Prop :=
    ∀ (x y : Reg) (s : State), ∃ t, exec (.addReg x y) s = .next t ∧
      (x ≠ 15 → (t.reg x).toNat = ((s.reg x).toNat + (s.reg y).toNat) % 256) ∧
      t.reg 15 = (if 0xFF < (s.reg x).toNat + (s.reg y).toNat then 1 else 0) ∧
      (∀ r, r ≠ x → r ≠ 15 → t.reg r = s.reg r) ∧ t = { s with v := t.v, pc := s.pc + 2 }

/-- For every X, Y and state, SUB VX, VY answers the state with VF = 1 if V[X] ≥ V[Y] else 0, V[X] = (V[X] − V[Y]) mod 256
unless X = F, PC + 2, every other register and everything else as before. (R140) -/
def Obligations.SubtractSetsNotBorrow : Prop :=
    ∀ (x y : Reg) (s : State), ∃ t, exec (.subReg x y) s = .next t ∧
      (x ≠ 15 → ((t.reg x).toNat : Int) = ((s.reg x).toNat - (s.reg y).toNat : Int) % 256) ∧
      t.reg 15 = (if (s.reg x).toNat ≥ (s.reg y).toNat then 1 else 0) ∧
      (∀ r, r ≠ x → r ≠ 15 → t.reg r = s.reg r) ∧ t = { s with v := t.v, pc := s.pc + 2 }

/-- For every X, Y and state, with v the old V[Y]: VF = v[0]; V[Y] = v[0]; V[X] = v / 2 unless X = Y or X = F; PC + 2;
every other register and everything else as before. (R141) -/
def Obligations.ShiftRightMutatesVY : Prop :=
    ∀ (x y : Reg) (s : State), ∃ t, exec (.shr x y) s = .next t ∧
      (t.reg 15).toNat = (s.reg y).toNat % 2 ∧ (t.reg y).toNat = (s.reg y).toNat % 2 ∧
      (x ≠ y → x ≠ 15 → (t.reg x).toNat = (s.reg y).toNat / 2) ∧
      (∀ r, r ≠ x → r ≠ y → r ≠ 15 → t.reg r = s.reg r) ∧ t = { s with v := t.v, pc := s.pc + 2 }

/-- For every X, Y and state, with v the old V[Y]: VF = v[7] as 0 or 1 (the spec's decision D17); V[Y] = the same; V[X] =
(v · 2) mod 256 unless X = Y or X = F; PC + 2; every other register and everything else as before. (41_register_alu.md
§3 (R142), 92_eei_decisions.md D17) -/
def Obligations.ShiftLeftMutatesVY : Prop :=
    ∀ (x y : Reg) (s : State), ∃ t, exec (.shl x y) s = .next t ∧
      (t.reg 15).toNat = (s.reg y).toNat / 128 ∧ (t.reg y).toNat = (s.reg y).toNat / 128 ∧
      (x ≠ y → x ≠ 15 → (t.reg x).toNat = (s.reg y).toNat * 2 % 256) ∧
      (∀ r, r ≠ x → r ≠ y → r ≠ 15 → t.reg r = s.reg r) ∧ t = { s with v := t.v, pc := s.pc + 2 }

/-- For every NNN and state, LD I, NNN answers the state with I = NNN (so at most 0xFFF), PC + 2, and everything else as
before. (R143) -/
def Obligations.LoadIndex : Prop :=
    ∀ (nnn : Addr12) (s : State), ∃ t, exec (.ldI nnn) s = .next t ∧ t.i.toNat = nnn.toNat ∧
      t = { s with i := t.i, pc := s.pc + 2 }

/-- With a prescribed random byte at most NN, VX becomes it; with none prescribed, VX becomes some value at most NN,
whichever the host draws (a free value, the model's log 4), and only the counter of free values moves; a prescribed
byte above NN breaks the host's duty and is refused. PC + 2 and everything else as before. (41_register_alu.md §4
(R144), 60_exceptions.md §5 (R250), 92_eei_decisions.md D19) -/
def Obligations.RandomIsTheHostsByteWithinTheMask : Prop :=
    ∀ (x : Reg) (nn : Byte) (s : State),
      (∀ r, s.rnd = some r → r ≤ nn →
        exec (.rnd x nn) s = .next { s with v := s.v.set x.val r, pc := s.pc + 2 }) ∧
      (s.rnd = none → ∃ r, r ≤ nn ∧
        exec (.rnd x nn) s = .next { s with v := s.v.set x.val r, pc := s.pc + 2, draws := s.draws + 1 }) ∧
      (∀ r, s.rnd = some r → nn < r → exec (.rnd x nn) s = .refused .hostRandomAboveMask)

/-- For every NNN and state, JP NNN answers the state with PC = NNN zero-extended, even or odd, and everything else as
before; it raises no fault. (R103) -/
def Obligations.JumpGoesToItsAddress : Prop :=
    ∀ (nnn : Addr12) (s : State), ∃ t, exec (.jp nnn) s = .next t ∧ t.pc.toNat = nnn.toNat ∧ t = { s with pc := t.pc }

/-- With SP below 16, CALL NNN stores PC in Stack[SP], raises SP by 1, sets PC to NNN and changes nothing else. With SP =
16 it answers StackOverflow(PC) (the spec's decision D11). (40_control_flow.md §2 (R104), 10_state.md §4 (R28),
92_eei_decisions.md D11) -/
def Obligations.CallPushesItsOwnAddress : Prop :=
    ∀ (nnn : Addr12) (s : State),
      (s.sp.val < 16 → ∃ t, exec (.call nnn) s = .next t ∧ t.pc.toNat = nnn.toNat ∧ t.sp.val = s.sp.val + 1 ∧
        (∀ k : Fin 16, t.stackEntry k = if k.val = s.sp.val then s.pc else s.stackEntry k) ∧
        t = { s with stack := t.stack, sp := t.sp, pc := t.pc }) ∧
      (s.sp.val = 16 → exec (.call nnn) s = .fault (.stackOverflow s.pc))

/-- With SP above 0, RET lowers SP by 1, sets PC to the entry at the new SP plus 2 and changes nothing else, the stack
entries included. With SP = 0 it answers StackUnderflow(PC) (the spec's decision D11). (40_control_flow.md §2 (R102),
10_state.md §4 (R28), 92_eei_decisions.md D11) -/
def Obligations.ReturnGoesPastTheCallSite : Prop :=
    ∀ s : State,
      (0 < s.sp.val → ∃ t, exec .ret s = .next t ∧ t.sp.val + 1 = s.sp.val ∧
        (∀ k : Fin 16, k.val = t.sp.val → t.pc = s.stackEntry k + 2) ∧ t = { s with sp := t.sp, pc := t.pc }) ∧
      (s.sp.val = 0 → exec .ret s = .fault (.stackUnderflow s.pc))

/-- With SP below 16, CALL answers a state t. From every state u with the stack and SP of t, whatever else the subroutine
changed, RET answers a state with PC = the call site + 2 and SP as before the call (the source's own property for 2NNN
then 00EE). (40_control_flow.md §2 (R102, R104), 90_conflicts.md C4, 95_test_vectors.md §1 (L1.10)) -/
def Obligations.CallThenReturnContinuesAfterTheCall : Prop :=
    ∀ (nnn : Addr12) (s : State), s.sp.val < 16 →
      ∃ t, exec (.call nnn) s = .next t ∧
        ∀ u : State, u.stack = t.stack → u.sp = t.sp →
          ∃ r, exec .ret u = .next r ∧ r.pc = s.pc + 2 ∧ r.sp = s.sp ∧ r = { u with sp := s.sp, pc := s.pc + 2 }

/-- For every X, NN and state, SE answers the state with PC + 4 if V[X] = NN else PC + 2, SNE the complement; everything
else is as before. (R105, R106) -/
def Obligations.SkipsOnImmediate : Prop :=
    ∀ (x : Reg) (nn : Byte) (s : State),
      exec (.seImm x nn) s = .next { s with pc := if s.reg x = nn then s.pc + 4 else s.pc + 2 } ∧
      exec (.sneImm x nn) s = .next { s with pc := if s.reg x = nn then s.pc + 2 else s.pc + 4 }

/-- For every X, Y and state, SE answers the state with PC + 4 if V[X] = V[Y] else PC + 2, SNE the complement; everything
else is as before. (40_control_flow.md §3 (R107, R108)) -/
def Obligations.SkipsOnRegisters : Prop :=
    ∀ (x y : Reg) (s : State),
      exec (.seReg x y) s = .next { s with pc := if s.reg x = s.reg y then s.pc + 4 else s.pc + 2 } ∧
      exec (.sneReg x y) s = .next { s with pc := if s.reg x = s.reg y then s.pc + 2 else s.pc + 4 }

/-- For every NNN and state, JP V0, NNN answers the state with PC the exact sum of V[0] and NNN, not reduced to 12 bits
(the spec's decision D7), and everything else as before; it raises no fault at the jump. (40_control_flow.md §4
(R109), 92_eei_decisions.md D7) -/
def Obligations.JumpV0AddsWithoutWrap : Prop :=
    ∀ (nnn : Addr12) (s : State), ∃ t, exec (.jpV0 nnn) s = .next t ∧
      t.pc.toNat = (s.reg 0).toNat + nnn.toNat ∧ t.pc.toNat ≤ 0x10FE ∧ t = { s with pc := t.pc }

/-- For every state, CLS answers the state with every pixel unset, drawn true, PC + 2 and everything else, VF, I and
memory among it, as before. (R160) -/
def Obligations.ClearUnsetsEveryPixel : Prop :=
    ∀ s : State, ∃ t, exec .cls s = .next t ∧ (∀ x y, x < 64 → y < 32 → t.fb.pixel x y = false) ∧ t.drawn = true ∧
      t = { s with fb := t.fb, drawn := true, pc := s.pc + 2 }

/-- With N = 0 or I + N − 1 at most 0xFFF and no set sprite bit off the screen, DRW answers a state in which every pixel
is the old one XOR the sprite bit there (bit 7 of byte r at column VX, on row VY + r); VF is 1 exactly when a set
sprite bit met a set pixel, else 0; drawn is true; PC + 2; every other register and everything else, memory and I
among it, as before. (42_display.md §2 (R161, R162, R163, R164), 41_register_alu.md §1 (R131)) -/
def Obligations.DrawTogglesTheSpriteAndFlagsCollision : Prop :=
    ∀ (x y : Reg) (n : Fin 16) (s : State), (n.val = 0 ∨ s.i.toNat + n.val - 1 ≤ 0xFFF) →
      (∀ px py, s.spriteBit x y n px py = true → px < 64 ∧ py < 32) →
      ∃ t, exec (.drw x y n) s = .next t ∧
        (∀ px py, px < 64 → py < 32 → t.fb.pixel px py = (s.fb.pixel px py ^^ s.spriteBit x y n px py)) ∧
        ((∃ px py, s.spriteBit x y n px py = true ∧ s.fb.pixel px py = true) → t.reg 15 = 1) ∧
        ((∀ px py, s.spriteBit x y n px py = true → s.fb.pixel px py = false) → t.reg 15 = 0) ∧
        (∀ r, r ≠ 15 → t.reg r = s.reg r) ∧ t.drawn = true ∧
        t = { s with fb := t.fb, drawn := true, v := t.v, pc := s.pc + 2 }

/-- With N above 0 and I + N − 1 above 0xFFF, DRW answers MemOutOfRange(max(I, 0x1000)), wherever the pixels lie.
Otherwise, with a set sprite bit off the screen, it answers DrawOutOfRange(px, py) for an off-screen set bit that no
other off-screen set bit precedes, rows ascending and then columns ascending. The faults and their order are the
spec's decisions D7, D10, D38. (42_display.md §2 (R162, R165, R166), 92_eei_decisions.md D7, D10, D38) -/
def Obligations.DrawFaultsInOrder : Prop :=
    ∀ (x y : Reg) (n : Fin 16) (s : State),
      (0 < n.val → 0xFFF < s.i.toNat + n.val - 1 →
        exec (.drw x y n) s = .fault (.memOutOfRange (max s.i.toNat 0x1000))) ∧
      ((n.val = 0 ∨ s.i.toNat + n.val - 1 ≤ 0xFFF) →
        (∃ px py, s.spriteBit x y n px py = true ∧ (64 ≤ px ∨ 32 ≤ py)) →
        ∃ px py, exec (.drw x y n) s = .fault (.drawOutOfRange px py) ∧ s.spriteBit x y n px py = true ∧
          (64 ≤ px ∨ 32 ≤ py) ∧
          ∀ qx qy, s.spriteBit x y n qx qy = true → (64 ≤ qx ∨ 32 ≤ qy) → py < qy ∨ (py = qy ∧ px ≤ qx))

/-- If a key is held and its number is V[X], SKP moves PC by 4 and SKNP by 2; otherwise, with no key or another key or
V[X] above 15, SKP moves PC by 2 and SKNP by 4; everything else is as before. The comparison is the spec's decision
D6. (43_keys_timers_memory.md §1, §2 (R180, R181, R182), 92_eei_decisions.md D6) -/
def Obligations.KeySkipsCompareTheWholeByte : Prop :=
    ∀ (x : Reg) (s : State),
      ((∃ k : Key, s.key = some k ∧ k.val = (s.reg x).toNat) →
        exec (.skp x) s = .next { s with pc := s.pc + 4 } ∧ exec (.sknp x) s = .next { s with pc := s.pc + 2 }) ∧
      ((∀ k : Key, s.key = some k → k.val ≠ (s.reg x).toNat) →
        exec (.skp x) s = .next { s with pc := s.pc + 2 } ∧ exec (.sknp x) s = .next { s with pc := s.pc + 4 })

/-- For every X and state: LD VX, DT answers V[X] = DT; LD DT, VX answers DT = V[X]; LD ST, VX answers ST = V[X] with the
audio gate unchanged; each with PC + 2 and everything else as before. (R183, R185, R186) -/
def Obligations.TimerMoves : Prop :=
    ∀ (x : Reg) (s : State),
      (∃ t, exec (.ldVxDt x) s = .next t ∧ t.reg x = s.dt ∧ (∀ r, r ≠ x → t.reg r = s.reg r) ∧
        t = { s with v := t.v, pc := s.pc + 2 }) ∧
      exec (.ldDtVx x) s = .next { s with dt := s.reg x, pc := s.pc + 2 } ∧
      exec (.ldStVx x) s = .next { s with st := s.reg x, pc := s.pc + 2 }

/-- With no key held, LD VX, K answers the same state, PC included, so it is fetched again. With key k held it answers
V[X] = k, PC + 2 and everything else as before. (R184) -/
def Obligations.KeyWaitHoldsUntilAKeyIsHeld : Prop :=
    ∀ (x : Reg) (s : State),
      (s.key = none → exec (.ldVxK x) s = .next s) ∧
      (∀ k : Key, s.key = some k → ∃ t, exec (.ldVxK x) s = .next t ∧ (t.reg x).toNat = k.val ∧
        (∀ r, r ≠ x → t.reg r = s.reg r) ∧ t = { s with v := t.v, pc := s.pc + 2 })

/-- For every X and state: ADD I, VX answers I = (I + V[X]) mod 2^16; LD F, VX answers I = 0x050 + 5 · V[X] for the whole
byte V[X]; each with PC + 2, VF and everything else as before. The missing flag and mask are the spec's decisions D21
and D22. (43_keys_timers_memory.md §4 (R187, R188), 92_eei_decisions.md D21, D22) -/
def Obligations.IndexArithmetic : Prop :=
    ∀ (x : Reg) (s : State),
      (∃ t, exec (.addIVx x) s = .next t ∧ t.i.toNat = (s.i.toNat + (s.reg x).toNat) % 65536 ∧
        t = { s with i := t.i, pc := s.pc + 2 }) ∧
      (∃ t, exec (.ldFVx x) s = .next t ∧ t.i.toNat = 0x050 + 5 * (s.reg x).toNat ∧
        t = { s with i := t.i, pc := s.pc + 2 })

/-- With I at most 0xFFD, LD B, VX answers a state in which M[I], M[I+1], M[I+2] are the hundreds, tens and units of V[X],
every other byte is as before, PC + 2, and everything else, I among it, is as before. With I above 0xFFD it answers
MemOutOfRange(max(I, 0x1000)), which is the spec's own hardening (decision D7). (43_keys_timers_memory.md §5 (R189),
20_memory.md §5 (R64), 92_eei_decisions.md D7) -/
def Obligations.StoreDecimalDigits : Prop :=
    ∀ (x : Reg) (s : State),
      (s.i.toNat ≤ 0xFFD → ∃ t, exec (.ldBVx x) s = .next t ∧
        (t.readByte s.i.toNat).toNat = (s.reg x).toNat / 100 ∧
        (t.readByte (s.i.toNat + 1)).toNat = (s.reg x).toNat / 10 % 10 ∧
        (t.readByte (s.i.toNat + 2)).toNat = (s.reg x).toNat % 10 ∧
        (∀ a, (a < s.i.toNat ∨ s.i.toNat + 3 ≤ a) → t.readByte a = s.readByte a) ∧
        t = { s with mem := t.mem, pc := s.pc + 2 }) ∧
      (0xFFD < s.i.toNat → exec (.ldBVx x) s = .fault (.memOutOfRange (max s.i.toNat 0x1000)))

/-- With I + X at most 0xFFF, LD [I], VX answers a state in which M[I + k] = V[k] for k in 0..X, every other byte is as
before, PC + 2, and everything else, I among it (the spec's decision D20), is as before. With I + X above 0xFFF it
answers MemOutOfRange(max(I, 0x1000)). (43_keys_timers_memory.md §5 (R190), 92_eei_decisions.md D7, D20) -/
def Obligations.StoreRegisters : Prop :=
    ∀ (x : Reg) (s : State),
      (s.i.toNat + x.val ≤ 0xFFF → ∃ t, exec (.ldMemVx x) s = .next t ∧
        (∀ k : Reg, k ≤ x → t.readByte (s.i.toNat + k.val) = s.reg k) ∧
        (∀ a, (a < s.i.toNat ∨ s.i.toNat + x.val < a) → t.readByte a = s.readByte a) ∧
        t = { s with mem := t.mem, pc := s.pc + 2 }) ∧
      (0xFFF < s.i.toNat + x.val → exec (.ldMemVx x) s = .fault (.memOutOfRange (max s.i.toNat 0x1000)))

/-- With I + X at most 0xFFF, LD VX, [I] answers a state in which V[k] = M[I + k] for k in 0..X (VF too when X = F), every
other register, every byte of memory, I (the spec's decision D20) and everything else is as before, and PC + 2. With I
+ X above 0xFFF it answers MemOutOfRange(max(I, 0x1000)). (43_keys_timers_memory.md §5 (R191), 92_eei_decisions.md D7,
D20) -/
def Obligations.LoadRegisters : Prop :=
    ∀ (x : Reg) (s : State),
      (s.i.toNat + x.val ≤ 0xFFF → ∃ t, exec (.ldVxMem x) s = .next t ∧
        (∀ k : Reg, k ≤ x → t.reg k = s.readByte (s.i.toNat + k.val)) ∧
        (∀ k : Reg, x < k → t.reg k = s.reg k) ∧ t = { s with v := t.v, pc := s.pc + 2 }) ∧
      (0xFFF < s.i.toNat + x.val → exec (.ldVxMem x) s = .fault (.memOutOfRange (max s.i.toNat 0x1000)))

/-- For each of the 11 unrecognized forms (8XYN with N = 7, 8, 9, A, B, C, D, F; 0NNN; EXNN; FXNN), every operand and
every state, exec answers the state with one more output, Unrecognized(PC, w) with w the form's word; PC moves by 2
for families 0 and 8 and stays for families E and F; everything else is as before. For the operands of 0NNN, EXNN and
FXNN that an instruction row matches, which no word decodes to, this is the model's choice (log 11). (30_encoding.md
§3 (R86, R87), 60_exceptions.md §1 (R221)) -/
def Obligations.UnrecognizedFormsLogAndGoOn : Prop :=
    ∀ (i : Instr) (s : State), unrecognizedForm i = true →
      exec i s = .next { s with
        outputs := s.outputs ++ [.unrecognized (unrecognizedCode (encode i)) s.pc (encode i)]
        pc := if holdsPc i then s.pc else s.pc + 2 }

/-- With PC at most 0xFFE and the word w at PC unrecognized under the machine's FAMILY0_MATCH: one instruction answers the
state with Unrecognized(PC, w) logged for that w, identified U0, U8, UE or UF by its family, PC moved by 2 when the
family is 0 or 8 and unchanged when it is E or F, and no register, memory byte, timer, pixel or flag changed. The
identification by family is the spec's own (R221, decision D28). (30_encoding.md §3 (R86), 60_exceptions.md §1 (R221),
92_eei_decisions.md D28) -/
def Obligations.FetchedUnrecognizedWordIsLogged : Prop :=
    ∀ (s : State) (w : Word), s.pc.toNat ≤ 0xFFE →
      s.readByte s.pc.toNat = w.extractLsb' 8 8 → s.readByte (s.pc.toNat + 1) = w.extractLsb' 0 8 →
      unrecognizedForm (decodeWord s.cfg.family0 w) = true →
      (fieldF w = 0x0#4 ∧ executeOne s = .next { s with
          outputs := s.outputs ++ [.unrecognized .u0 s.pc w], pc := s.pc + 2 }) ∨
      (fieldF w = 0x8#4 ∧ executeOne s = .next { s with
          outputs := s.outputs ++ [.unrecognized .u8 s.pc w], pc := s.pc + 2 }) ∨
      (fieldF w = 0xE#4 ∧ executeOne s = .next { s with outputs := s.outputs ++ [.unrecognized .uE s.pc w] }) ∨
      (fieldF w = 0xF#4 ∧ executeOne s = .next { s with outputs := s.outputs ++ [.unrecognized .uF s.pc w] })

/-- For every state, configuration and word w below 2^16: the next input of the state with w placed comes at the earliest
tick at which the instruction cadence fires and that is not before now, with the key kept and no hint, quit or random
byte. The step executes exactly what w decodes to in the state u that is the given one with PC (0x200 if PC was above
0xFFE), w's two bytes at PC, a running machine, that input's now and no random byte, clkI one period later and no
outputs; then comes the rest of the iteration. withFetchWord is the model's own loader (log 8). (60_exceptions.md §4
(R236, R237), 20_memory.md §4 (R60), 70_reset_and_hazards.md §1 (R270)) -/
def Obligations.PlacedWordIsRunByTheNextStep : Prop :=
    ∀ (s : State) (w : Word), ∃ u : State,
      let inp : HostInput := {
        now := max s.now (s.clkI + ((s.cfg.tInstr0 + s.offset : Nat) : Int))
        pkey := s.key, hint := .none, quit := false, rnd := none }
      (s.withFetchWord 16 w.toNat).nextInput = inp ∧
      u = { s with
        pc := if 0xFFE < s.pc.toNat then 0x200 else s.pc
        mem := u.mem, run := .running, now := inp.now, rnd := none, outputs := []
        clkI := s.clkI + ((s.cfg.tInstr0 + s.offset : Nat) : Int) } ∧
      u.readByte u.pc.toNat = w.extractLsb' 8 8 ∧ u.readByte (u.pc.toNat + 1) = w.extractLsb' 0 8 ∧
      (∀ a, a ≠ u.pc.toNat → a ≠ u.pc.toNat + 1 → u.readByte a = s.readByte a) ∧
      step (s.withFetchWord 16 w.toNat) =
        match exec (decodeWord s.cfg.family0 w) u with
        | .next t => .next (t.finish inp)
        | .fault f => .next { u with run := .faulted f }
        | .refused r => .refused r
end

