-- ==== Sys2Proof/Laws/Framebuffer.lean ====
section
/-! SUPPORT. Pixels after a toggle and after a blit, and which pixels a sprite covers. -/

namespace Sys2Proof.Machine

/-! ## One pixel -/

/-- Toggling a pixel on the screen changes it and no other (R162). -/
theorem Framebuffer.pixel_toggle (fb : Framebuffer) {x y : Nat} (hx : x < 64) (hy : y < 32) (x' y' : Nat) :
    (fb.toggle x y).pixel x' y' = if x = x' ∧ y = y' then !fb.pixel x y else fb.pixel x' y' := by
  simp only [Framebuffer.toggle, hx, hy, and_self, dite_true, Framebuffer.pixel]
  by_cases h : x' < 64 ∧ y' < 32
  · simp only [h, and_self, dite_true, Vector.getElem_set]
    by_cases ex : x = x'
    · subst ex
      by_cases ey : y = y'
      · subst ey; simp
      · simp [ey]
    · simp [ex]
  · have : ¬(x = x' ∧ y = y') := by omega
    simp [h, this]

@[simp] theorem Framebuffer.pixel_clear (x y : Nat) : Framebuffer.clear.pixel x y = false := by
  simp [Framebuffer.pixel, Framebuffer.clear]

/-- Two framebuffers with the same pixels on the screen are the same (R30). -/
theorem Framebuffer.ext_pixel {f g : Framebuffer}
    (h : ∀ x y, x < 64 → y < 32 → f.pixel x y = g.pixel x y) : f = g := by
  apply Vector.ext
  intro x hx
  apply Vector.ext
  intro y hy
  simpa [Framebuffer.pixel, hx, hy] using h x y hx hy

/-- The byte of a pixel in the byte view (R30). -/
theorem Framebuffer.bytes_getElem (fb : Framebuffer) (k : Nat) (hk : k < 2048) :
    fb.bytes[k] = if fb.pixel (k % 64) (k / 64) then 0xFF else 0x00 := by
  simp [Framebuffer.bytes]

/-! ## The pixels of a sprite -/

theorem mem_rowPixels {x0 y : Nat} {row : Byte} {p : Nat × Nat} :
    p ∈ rowPixels x0 y row ↔ p.2 = y ∧ x0 ≤ p.1 ∧ p.1 < x0 + 8 ∧ row.getLsbD (7 - (p.1 - x0)) = true := by
  obtain ⟨px, py⟩ := p
  simp only [rowPixels, List.mem_filterMap, List.mem_range]
  constructor
  · rintro ⟨c, hc, h⟩
    split at h
    · rename_i hb
      simp only [Option.some.injEq, Prod.mk.injEq] at h
      obtain ⟨rfl, rfl⟩ := h
      refine ⟨rfl, by omega, by omega, ?_⟩
      have : x0 + c - x0 = c := by omega
      simpa [this] using hb
    · cases h
  · rintro ⟨rfl, h1, h2, hb⟩
    refine ⟨px - x0, by omega, ?_⟩
    rw [if_pos hb]
    have : x0 + (px - x0) = px := by omega
    simp [this]

/-- A pixel belongs to a sprite when the bit of its row and column is set (R163). -/
theorem mem_spritePixels {x0 y : Nat} {rows : List Byte} {p : Nat × Nat} :
    p ∈ spritePixels x0 y rows ↔
      ∃ h : y ≤ p.2 ∧ p.2 < y + rows.length,
        x0 ≤ p.1 ∧ p.1 < x0 + 8 ∧ (rows[p.2 - y]'(by omega)).getLsbD (7 - (p.1 - x0)) = true := by
  induction rows generalizing y with
  | nil =>
    simp only [spritePixels, List.not_mem_nil, List.length_nil, false_iff]
    rintro ⟨h, -⟩
    omega
  | cons row rows ih =>
    simp only [spritePixels, List.mem_append, mem_rowPixels, ih, List.length_cons]
    constructor
    · rintro (⟨rfl, h⟩ | ⟨h1, h⟩)
      · exact ⟨by omega, by simpa using h⟩
      · refine ⟨by omega, h.1, h.2.1, ?_⟩
        have e : p.2 - y = (p.2 - (y + 1)) + 1 := by omega
        simpa [e] using h.2.2
    · rintro ⟨h1, h2, h3, hb⟩
      by_cases e : p.2 = y
      · refine Or.inl ⟨e, h2, h3, ?_⟩
        simpa [e] using hb
      · refine Or.inr ⟨by omega, h2, h3, ?_⟩
        have e : p.2 - y = (p.2 - (y + 1)) + 1 := by omega
        simpa [e] using hb

/-- The order of R162: rows ascending, then columns ascending. -/
def PixelBefore (p q : Nat × Nat) : Prop := p.2 < q.2 ∨ (p.2 = q.2 ∧ p.1 < q.1)

theorem pairwise_rowPixels (x0 y : Nat) (row : Byte) : (rowPixels x0 y row).Pairwise PixelBefore := by
  unfold rowPixels
  rw [List.pairwise_filterMap]
  refine List.Pairwise.imp ?_ List.pairwise_lt_range
  intro c d hcd p hp q hq
  split at hp
  · split at hq
    · simp only [Option.some.injEq] at hp hq
      subst hp hq
      exact Or.inr ⟨rfl, by show x0 + c < x0 + d; omega⟩
    · cases hq
  · cases hp

/-- The pixels of a sprite come in that order, so each comes once (R164). -/
theorem pairwise_spritePixels (x0 y : Nat) (rows : List Byte) :
    (spritePixels x0 y rows).Pairwise PixelBefore := by
  induction rows generalizing y with
  | nil => simp [spritePixels]
  | cons row rows ih =>
    rw [spritePixels, List.pairwise_append]
    refine ⟨pairwise_rowPixels x0 y row, ih (y + 1), fun p hp q hq => ?_⟩
    have h1 := (mem_rowPixels.mp hp).1
    obtain ⟨h2, -⟩ := mem_spritePixels.mp hq
    exact Or.inl (by omega)

theorem nodup_spritePixels (x0 y : Nat) (rows : List Byte) : (spritePixels x0 y rows).Nodup := by
  refine (pairwise_spritePixels x0 y rows).imp ?_
  rintro p q h rfl
  rcases h with h | h <;> omega

/-! ## The blit -/

/-- A blit of distinct pixels on the screen toggles exactly those (R162). -/
theorem pixel_blitPixels (ps : List (Nat × Nat)) (fb : Framebuffer) (c : Bool) (hn : ps.Nodup)
    (hs : ∀ p ∈ ps, p.1 < 64 ∧ p.2 < 32) (x y : Nat) :
    (blitPixels ps fb c).1.pixel x y = (fb.pixel x y ^^ decide ((x, y) ∈ ps)) := by
  induction ps generalizing fb c with
  | nil => simp [blitPixels]
  | cons p ps ih =>
    obtain ⟨hp, hn'⟩ := List.nodup_cons.mp hn
    have hps := hs p (by simp)
    rw [blitPixels, ih _ _ hn' fun q hq => hs q (by simp [hq]), Framebuffer.pixel_toggle fb hps.1 hps.2]
    by_cases e : p = (x, y)
    · subst e
      simp [hp]
    · have e1 : ¬(p.1 = x ∧ p.2 = y) := fun h => e (Prod.ext h.1 h.2)
      have e2 : ¬((x, y) = p) := fun h => e h.symm
      simp [e1, e2]

/-- The collision flag of a blit of distinct pixels: some pixel of it was set before the blit (R164). -/
theorem collision_blitPixels (ps : List (Nat × Nat)) (fb : Framebuffer) (c : Bool) (hn : ps.Nodup)
    (hs : ∀ p ∈ ps, p.1 < 64 ∧ p.2 < 32) :
    (blitPixels ps fb c).2 = (c || ps.any fun p => fb.pixel p.1 p.2) := by
  induction ps generalizing fb c with
  | nil => simp [blitPixels]
  | cons p ps ih =>
    obtain ⟨hp, hn'⟩ := List.nodup_cons.mp hn
    have hps := hs p (by simp)
    rw [blitPixels, ih _ _ hn' fun q hq => hs q (by simp [hq]), List.any_cons, Bool.or_assoc]
    congr 2
    rw [Bool.eq_iff_iff, List.any_eq_true, List.any_eq_true]
    refine exists_congr fun q => and_congr_right fun hq => ?_
    rw [Framebuffer.pixel_toggle fb hps.1 hps.2]
    have : ¬(p.1 = q.1 ∧ p.2 = q.2) := fun h => hp (Prod.ext h.1 h.2 ▸ hq)
    simp [this]

end Sys2Proof.Machine
end

