-- ==== Sys2Proof/Laws/Encoding.lean ====
section
/-! SUPPORT. The encoder's words as numbers, their fields, and the word built again from the fields of a word. -/

namespace Sys2Proof

/-! ## Words and fields as numbers -/

theorem toNat_append_eq {w v : Nat} (x : BitVec w) (y : BitVec v) :
    (x ++ y).toNat = x.toNat * 2 ^ v + y.toNat := by
  rw [BitVec.toNat_append, ← Nat.shiftLeft_add_eq_or_of_lt y.isLt, Nat.shiftLeft_eq]

@[simp] theorem regBits_toNat (x : Reg) : (regBits x).toNat = x.val := rfl

theorem formNNN_toNat (f : BitVec 4) (a : Addr12) : (formNNN f a).toNat = f.toNat * 4096 + a.toNat :=
  toNat_append_eq f a

theorem formXNN_toNat (f : BitVec 4) (x : Reg) (nn : Byte) :
    (formXNN f x nn).toNat = f.toNat * 4096 + x.val * 256 + nn.toNat := by
  have h1 := toNat_append_eq f (regBits x)
  have h2 := toNat_append_eq (f ++ regBits x) nn
  have h : (formXNN f x nn).toNat = (f ++ regBits x ++ nn).toNat := rfl
  rw [regBits_toNat] at h1
  omega

theorem formXYN_toNat (f : BitVec 4) (x y : Reg) (n : BitVec 4) :
    (formXYN f x y n).toNat = f.toNat * 4096 + x.val * 256 + y.val * 16 + n.toNat := by
  have h1 := toNat_append_eq f (regBits x)
  have h2 := toNat_append_eq (f ++ regBits x) (regBits y)
  have h3 := toNat_append_eq (f ++ regBits x ++ regBits y) n
  have h : (formXYN f x y n).toNat = (f ++ regBits x ++ regBits y ++ n).toNat := rfl
  rw [regBits_toNat] at h1 h2
  omega

theorem fieldF_toNat (w : Word) : (fieldF w).toNat = w.toNat / 4096 := by
  have := w.isLt
  simp [fieldF, Nat.shiftRight_eq_div_pow]
  omega

theorem fieldX_val (w : Word) : (fieldX w).val = w.toNat / 256 % 16 := by
  simp [fieldX, Nat.shiftRight_eq_div_pow]

theorem fieldY_val (w : Word) : (fieldY w).val = w.toNat / 16 % 16 := by
  simp [fieldY, Nat.shiftRight_eq_div_pow]

theorem fieldN_toNat (w : Word) : (fieldN w).toNat = w.toNat % 16 := by
  simp [fieldN]

theorem fieldNN_toNat (w : Word) : (fieldNN w).toNat = w.toNat % 256 := by
  simp [fieldNN]

theorem fieldNNN_toNat (w : Word) : (fieldNNN w).toNat = w.toNat % 4096 := by
  simp [fieldNNN]

/-! ## Fields of the encoder's words -/

@[simp] theorem fieldF_formNNN (f : BitVec 4) (a : Addr12) : fieldF (formNNN f a) = f := by
  apply BitVec.eq_of_toNat_eq
  rw [fieldF_toNat, formNNN_toNat]
  omega

@[simp] theorem fieldNNN_formNNN (f : BitVec 4) (a : Addr12) : fieldNNN (formNNN f a) = a := by
  apply BitVec.eq_of_toNat_eq
  rw [fieldNNN_toNat, formNNN_toNat]
  omega

@[simp] theorem fieldNN_formNNN (f : BitVec 4) (a : Addr12) : fieldNN (formNNN f a) = a.extractLsb' 0 8 := by
  apply BitVec.eq_of_toNat_eq
  rw [fieldNN_toNat, formNNN_toNat]
  simp
  omega

@[simp] theorem fieldN_formNNN (f : BitVec 4) (a : Addr12) : fieldN (formNNN f a) = a.extractLsb' 0 4 := by
  apply BitVec.eq_of_toNat_eq
  rw [fieldN_toNat, formNNN_toNat]
  simp
  omega

@[simp] theorem fieldF_formXNN (f : BitVec 4) (x : Reg) (nn : Byte) : fieldF (formXNN f x nn) = f := by
  apply BitVec.eq_of_toNat_eq
  rw [fieldF_toNat, formXNN_toNat]
  omega

@[simp] theorem fieldX_formXNN (f : BitVec 4) (x : Reg) (nn : Byte) : fieldX (formXNN f x nn) = x := by
  apply Fin.ext
  rw [fieldX_val, formXNN_toNat]
  omega

@[simp] theorem fieldNN_formXNN (f : BitVec 4) (x : Reg) (nn : Byte) : fieldNN (formXNN f x nn) = nn := by
  apply BitVec.eq_of_toNat_eq
  rw [fieldNN_toNat, formXNN_toNat]
  omega

@[simp] theorem fieldF_formXYN (f : BitVec 4) (x y : Reg) (n : BitVec 4) : fieldF (formXYN f x y n) = f := by
  apply BitVec.eq_of_toNat_eq
  rw [fieldF_toNat, formXYN_toNat]
  omega

@[simp] theorem fieldX_formXYN (f : BitVec 4) (x y : Reg) (n : BitVec 4) : fieldX (formXYN f x y n) = x := by
  apply Fin.ext
  rw [fieldX_val, formXYN_toNat]
  omega

@[simp] theorem fieldY_formXYN (f : BitVec 4) (x y : Reg) (n : BitVec 4) : fieldY (formXYN f x y n) = y := by
  apply Fin.ext
  rw [fieldY_val, formXYN_toNat]
  omega

@[simp] theorem fieldN_formXYN (f : BitVec 4) (x y : Reg) (n : BitVec 4) : fieldN (formXYN f x y n) = n := by
  apply BitVec.eq_of_toNat_eq
  rw [fieldN_toNat, formXYN_toNat]
  omega

/-! ## The word from its fields -/

theorem formNNN_fields (w : Word) : formNNN (fieldF w) (fieldNNN w) = w := by
  apply BitVec.eq_of_toNat_eq
  rw [formNNN_toNat, fieldF_toNat, fieldNNN_toNat]
  omega

theorem formXNN_fields (w : Word) : formXNN (fieldF w) (fieldX w) (fieldNN w) = w := by
  apply BitVec.eq_of_toNat_eq
  rw [formXNN_toNat, fieldF_toNat, fieldX_val, fieldNN_toNat]
  omega

theorem formXYN_fields (w : Word) : formXYN (fieldF w) (fieldX w) (fieldY w) (fieldN w) = w := by
  apply BitVec.eq_of_toNat_eq
  rw [formXYN_toNat, fieldF_toNat, fieldX_val, fieldY_val, fieldN_toNat]
  omega

/-- A word is its two bytes in memory order (R60). -/
theorem wordOfBytes_bytesOfWord (w : Word) : wordOfBytes (w.extractLsb' 8 8) (w.extractLsb' 0 8) = w := by
  apply BitVec.eq_of_toNat_eq
  have h := toNat_append_eq (w.extractLsb' 8 8) (w.extractLsb' 0 8)
  have : (wordOfBytes (w.extractLsb' 8 8) (w.extractLsb' 0 8)).toNat
      = (w.extractLsb' 8 8 ++ w.extractLsb' 0 8).toNat := rfl
  have hw := w.isLt
  simp [Nat.shiftRight_eq_div_pow] at h
  omega

end Sys2Proof
end

