-- ==== Sys2Proof/Laws/State.lean ====
section
/-! SUPPORT. What each update of State does to each field. -/

namespace Sys2Proof.Machine

@[simp] theorem State.setReg_v (s : State) (x : Reg) (b : Byte) : (s.setReg x b).v = s.v.set x.val b := rfl
@[simp] theorem State.setReg_i (s : State) (x : Reg) (b : Byte) : (s.setReg x b).i = s.i := rfl
@[simp] theorem State.setReg_pc (s : State) (x : Reg) (b : Byte) : (s.setReg x b).pc = s.pc := rfl
@[simp] theorem State.setReg_stack (s : State) (x : Reg) (b : Byte) : (s.setReg x b).stack = s.stack := rfl
@[simp] theorem State.setReg_sp (s : State) (x : Reg) (b : Byte) : (s.setReg x b).sp = s.sp := rfl
@[simp] theorem State.setReg_dt (s : State) (x : Reg) (b : Byte) : (s.setReg x b).dt = s.dt := rfl
@[simp] theorem State.setReg_st (s : State) (x : Reg) (b : Byte) : (s.setReg x b).st = s.st := rfl
@[simp] theorem State.setReg_fb (s : State) (x : Reg) (b : Byte) : (s.setReg x b).fb = s.fb := rfl
@[simp] theorem State.setReg_drawn (s : State) (x : Reg) (b : Byte) : (s.setReg x b).drawn = s.drawn := rfl
@[simp] theorem State.setReg_key (s : State) (x : Reg) (b : Byte) : (s.setReg x b).key = s.key := rfl
@[simp] theorem State.setReg_clkI (s : State) (x : Reg) (b : Byte) : (s.setReg x b).clkI = s.clkI := rfl
@[simp] theorem State.setReg_clkT (s : State) (x : Reg) (b : Byte) : (s.setReg x b).clkT = s.clkT := rfl
@[simp] theorem State.setReg_offset (s : State) (x : Reg) (b : Byte) : (s.setReg x b).offset = s.offset := rfl
@[simp] theorem State.setReg_audio (s : State) (x : Reg) (b : Byte) : (s.setReg x b).audio = s.audio := rfl
@[simp] theorem State.setReg_run (s : State) (x : Reg) (b : Byte) : (s.setReg x b).run = s.run := rfl
@[simp] theorem State.setReg_mem (s : State) (x : Reg) (b : Byte) : (s.setReg x b).mem = s.mem := rfl
@[simp] theorem State.setReg_cfg (s : State) (x : Reg) (b : Byte) : (s.setReg x b).cfg = s.cfg := rfl
@[simp] theorem State.setReg_now (s : State) (x : Reg) (b : Byte) : (s.setReg x b).now = s.now := rfl
@[simp] theorem State.setReg_rnd (s : State) (x : Reg) (b : Byte) : (s.setReg x b).rnd = s.rnd := rfl
@[simp] theorem State.setReg_host (s : State) (x : Reg) (b : Byte) : (s.setReg x b).host = s.host := rfl
@[simp] theorem State.setReg_draws (s : State) (x : Reg) (b : Byte) : (s.setReg x b).draws = s.draws := rfl
@[simp] theorem State.setReg_outputs (s : State) (x : Reg) (b : Byte) : (s.setReg x b).outputs = s.outputs := rfl

@[simp] theorem State.setFlag_v (s : State) (b : Byte) : (s.setFlag b).v = s.v.set regF.val b := rfl
@[simp] theorem State.setFlag_i (s : State) (b : Byte) : (s.setFlag b).i = s.i := rfl
@[simp] theorem State.setFlag_pc (s : State) (b : Byte) : (s.setFlag b).pc = s.pc := rfl
@[simp] theorem State.setFlag_stack (s : State) (b : Byte) : (s.setFlag b).stack = s.stack := rfl
@[simp] theorem State.setFlag_sp (s : State) (b : Byte) : (s.setFlag b).sp = s.sp := rfl
@[simp] theorem State.setFlag_dt (s : State) (b : Byte) : (s.setFlag b).dt = s.dt := rfl
@[simp] theorem State.setFlag_st (s : State) (b : Byte) : (s.setFlag b).st = s.st := rfl
@[simp] theorem State.setFlag_fb (s : State) (b : Byte) : (s.setFlag b).fb = s.fb := rfl
@[simp] theorem State.setFlag_drawn (s : State) (b : Byte) : (s.setFlag b).drawn = s.drawn := rfl
@[simp] theorem State.setFlag_key (s : State) (b : Byte) : (s.setFlag b).key = s.key := rfl
@[simp] theorem State.setFlag_clkI (s : State) (b : Byte) : (s.setFlag b).clkI = s.clkI := rfl
@[simp] theorem State.setFlag_clkT (s : State) (b : Byte) : (s.setFlag b).clkT = s.clkT := rfl
@[simp] theorem State.setFlag_offset (s : State) (b : Byte) : (s.setFlag b).offset = s.offset := rfl
@[simp] theorem State.setFlag_audio (s : State) (b : Byte) : (s.setFlag b).audio = s.audio := rfl
@[simp] theorem State.setFlag_run (s : State) (b : Byte) : (s.setFlag b).run = s.run := rfl
@[simp] theorem State.setFlag_mem (s : State) (b : Byte) : (s.setFlag b).mem = s.mem := rfl
@[simp] theorem State.setFlag_cfg (s : State) (b : Byte) : (s.setFlag b).cfg = s.cfg := rfl
@[simp] theorem State.setFlag_now (s : State) (b : Byte) : (s.setFlag b).now = s.now := rfl
@[simp] theorem State.setFlag_rnd (s : State) (b : Byte) : (s.setFlag b).rnd = s.rnd := rfl
@[simp] theorem State.setFlag_host (s : State) (b : Byte) : (s.setFlag b).host = s.host := rfl
@[simp] theorem State.setFlag_draws (s : State) (b : Byte) : (s.setFlag b).draws = s.draws := rfl
@[simp] theorem State.setFlag_outputs (s : State) (b : Byte) : (s.setFlag b).outputs = s.outputs := rfl

@[simp] theorem State.setI_v (s : State) (w : Word) : (s.setI w).v = s.v := rfl
@[simp] theorem State.setI_i (s : State) (w : Word) : (s.setI w).i = w := rfl
@[simp] theorem State.setI_pc (s : State) (w : Word) : (s.setI w).pc = s.pc := rfl
@[simp] theorem State.setI_stack (s : State) (w : Word) : (s.setI w).stack = s.stack := rfl
@[simp] theorem State.setI_sp (s : State) (w : Word) : (s.setI w).sp = s.sp := rfl
@[simp] theorem State.setI_dt (s : State) (w : Word) : (s.setI w).dt = s.dt := rfl
@[simp] theorem State.setI_st (s : State) (w : Word) : (s.setI w).st = s.st := rfl
@[simp] theorem State.setI_fb (s : State) (w : Word) : (s.setI w).fb = s.fb := rfl
@[simp] theorem State.setI_drawn (s : State) (w : Word) : (s.setI w).drawn = s.drawn := rfl
@[simp] theorem State.setI_key (s : State) (w : Word) : (s.setI w).key = s.key := rfl
@[simp] theorem State.setI_clkI (s : State) (w : Word) : (s.setI w).clkI = s.clkI := rfl
@[simp] theorem State.setI_clkT (s : State) (w : Word) : (s.setI w).clkT = s.clkT := rfl
@[simp] theorem State.setI_offset (s : State) (w : Word) : (s.setI w).offset = s.offset := rfl
@[simp] theorem State.setI_audio (s : State) (w : Word) : (s.setI w).audio = s.audio := rfl
@[simp] theorem State.setI_run (s : State) (w : Word) : (s.setI w).run = s.run := rfl
@[simp] theorem State.setI_mem (s : State) (w : Word) : (s.setI w).mem = s.mem := rfl
@[simp] theorem State.setI_cfg (s : State) (w : Word) : (s.setI w).cfg = s.cfg := rfl
@[simp] theorem State.setI_now (s : State) (w : Word) : (s.setI w).now = s.now := rfl
@[simp] theorem State.setI_rnd (s : State) (w : Word) : (s.setI w).rnd = s.rnd := rfl
@[simp] theorem State.setI_host (s : State) (w : Word) : (s.setI w).host = s.host := rfl
@[simp] theorem State.setI_draws (s : State) (w : Word) : (s.setI w).draws = s.draws := rfl
@[simp] theorem State.setI_outputs (s : State) (w : Word) : (s.setI w).outputs = s.outputs := rfl

@[simp] theorem State.setPc_v (s : State) (w : Word) : (s.setPc w).v = s.v := rfl
@[simp] theorem State.setPc_i (s : State) (w : Word) : (s.setPc w).i = s.i := rfl
@[simp] theorem State.setPc_pc (s : State) (w : Word) : (s.setPc w).pc = w := rfl
@[simp] theorem State.setPc_stack (s : State) (w : Word) : (s.setPc w).stack = s.stack := rfl
@[simp] theorem State.setPc_sp (s : State) (w : Word) : (s.setPc w).sp = s.sp := rfl
@[simp] theorem State.setPc_dt (s : State) (w : Word) : (s.setPc w).dt = s.dt := rfl
@[simp] theorem State.setPc_st (s : State) (w : Word) : (s.setPc w).st = s.st := rfl
@[simp] theorem State.setPc_fb (s : State) (w : Word) : (s.setPc w).fb = s.fb := rfl
@[simp] theorem State.setPc_drawn (s : State) (w : Word) : (s.setPc w).drawn = s.drawn := rfl
@[simp] theorem State.setPc_key (s : State) (w : Word) : (s.setPc w).key = s.key := rfl
@[simp] theorem State.setPc_clkI (s : State) (w : Word) : (s.setPc w).clkI = s.clkI := rfl
@[simp] theorem State.setPc_clkT (s : State) (w : Word) : (s.setPc w).clkT = s.clkT := rfl
@[simp] theorem State.setPc_offset (s : State) (w : Word) : (s.setPc w).offset = s.offset := rfl
@[simp] theorem State.setPc_audio (s : State) (w : Word) : (s.setPc w).audio = s.audio := rfl
@[simp] theorem State.setPc_run (s : State) (w : Word) : (s.setPc w).run = s.run := rfl
@[simp] theorem State.setPc_mem (s : State) (w : Word) : (s.setPc w).mem = s.mem := rfl
@[simp] theorem State.setPc_cfg (s : State) (w : Word) : (s.setPc w).cfg = s.cfg := rfl
@[simp] theorem State.setPc_now (s : State) (w : Word) : (s.setPc w).now = s.now := rfl
@[simp] theorem State.setPc_rnd (s : State) (w : Word) : (s.setPc w).rnd = s.rnd := rfl
@[simp] theorem State.setPc_host (s : State) (w : Word) : (s.setPc w).host = s.host := rfl
@[simp] theorem State.setPc_draws (s : State) (w : Word) : (s.setPc w).draws = s.draws := rfl
@[simp] theorem State.setPc_outputs (s : State) (w : Word) : (s.setPc w).outputs = s.outputs := rfl

@[simp] theorem State.advance_v (s : State) : (s.advance).v = s.v := rfl
@[simp] theorem State.advance_i (s : State) : (s.advance).i = s.i := rfl
@[simp] theorem State.advance_pc (s : State) : (s.advance).pc = s.pc + 2 := rfl
@[simp] theorem State.advance_stack (s : State) : (s.advance).stack = s.stack := rfl
@[simp] theorem State.advance_sp (s : State) : (s.advance).sp = s.sp := rfl
@[simp] theorem State.advance_dt (s : State) : (s.advance).dt = s.dt := rfl
@[simp] theorem State.advance_st (s : State) : (s.advance).st = s.st := rfl
@[simp] theorem State.advance_fb (s : State) : (s.advance).fb = s.fb := rfl
@[simp] theorem State.advance_drawn (s : State) : (s.advance).drawn = s.drawn := rfl
@[simp] theorem State.advance_key (s : State) : (s.advance).key = s.key := rfl
@[simp] theorem State.advance_clkI (s : State) : (s.advance).clkI = s.clkI := rfl
@[simp] theorem State.advance_clkT (s : State) : (s.advance).clkT = s.clkT := rfl
@[simp] theorem State.advance_offset (s : State) : (s.advance).offset = s.offset := rfl
@[simp] theorem State.advance_audio (s : State) : (s.advance).audio = s.audio := rfl
@[simp] theorem State.advance_run (s : State) : (s.advance).run = s.run := rfl
@[simp] theorem State.advance_mem (s : State) : (s.advance).mem = s.mem := rfl
@[simp] theorem State.advance_cfg (s : State) : (s.advance).cfg = s.cfg := rfl
@[simp] theorem State.advance_now (s : State) : (s.advance).now = s.now := rfl
@[simp] theorem State.advance_rnd (s : State) : (s.advance).rnd = s.rnd := rfl
@[simp] theorem State.advance_host (s : State) : (s.advance).host = s.host := rfl
@[simp] theorem State.advance_draws (s : State) : (s.advance).draws = s.draws := rfl
@[simp] theorem State.advance_outputs (s : State) : (s.advance).outputs = s.outputs := rfl

@[simp] theorem State.setDt_v (s : State) (b : Byte) : (s.setDt b).v = s.v := rfl
@[simp] theorem State.setDt_i (s : State) (b : Byte) : (s.setDt b).i = s.i := rfl
@[simp] theorem State.setDt_pc (s : State) (b : Byte) : (s.setDt b).pc = s.pc := rfl
@[simp] theorem State.setDt_stack (s : State) (b : Byte) : (s.setDt b).stack = s.stack := rfl
@[simp] theorem State.setDt_sp (s : State) (b : Byte) : (s.setDt b).sp = s.sp := rfl
@[simp] theorem State.setDt_dt (s : State) (b : Byte) : (s.setDt b).dt = b := rfl
@[simp] theorem State.setDt_st (s : State) (b : Byte) : (s.setDt b).st = s.st := rfl
@[simp] theorem State.setDt_fb (s : State) (b : Byte) : (s.setDt b).fb = s.fb := rfl
@[simp] theorem State.setDt_drawn (s : State) (b : Byte) : (s.setDt b).drawn = s.drawn := rfl
@[simp] theorem State.setDt_key (s : State) (b : Byte) : (s.setDt b).key = s.key := rfl
@[simp] theorem State.setDt_clkI (s : State) (b : Byte) : (s.setDt b).clkI = s.clkI := rfl
@[simp] theorem State.setDt_clkT (s : State) (b : Byte) : (s.setDt b).clkT = s.clkT := rfl
@[simp] theorem State.setDt_offset (s : State) (b : Byte) : (s.setDt b).offset = s.offset := rfl
@[simp] theorem State.setDt_audio (s : State) (b : Byte) : (s.setDt b).audio = s.audio := rfl
@[simp] theorem State.setDt_run (s : State) (b : Byte) : (s.setDt b).run = s.run := rfl
@[simp] theorem State.setDt_mem (s : State) (b : Byte) : (s.setDt b).mem = s.mem := rfl
@[simp] theorem State.setDt_cfg (s : State) (b : Byte) : (s.setDt b).cfg = s.cfg := rfl
@[simp] theorem State.setDt_now (s : State) (b : Byte) : (s.setDt b).now = s.now := rfl
@[simp] theorem State.setDt_rnd (s : State) (b : Byte) : (s.setDt b).rnd = s.rnd := rfl
@[simp] theorem State.setDt_host (s : State) (b : Byte) : (s.setDt b).host = s.host := rfl
@[simp] theorem State.setDt_draws (s : State) (b : Byte) : (s.setDt b).draws = s.draws := rfl
@[simp] theorem State.setDt_outputs (s : State) (b : Byte) : (s.setDt b).outputs = s.outputs := rfl

@[simp] theorem State.setSt_v (s : State) (b : Byte) : (s.setSt b).v = s.v := rfl
@[simp] theorem State.setSt_i (s : State) (b : Byte) : (s.setSt b).i = s.i := rfl
@[simp] theorem State.setSt_pc (s : State) (b : Byte) : (s.setSt b).pc = s.pc := rfl
@[simp] theorem State.setSt_stack (s : State) (b : Byte) : (s.setSt b).stack = s.stack := rfl
@[simp] theorem State.setSt_sp (s : State) (b : Byte) : (s.setSt b).sp = s.sp := rfl
@[simp] theorem State.setSt_dt (s : State) (b : Byte) : (s.setSt b).dt = s.dt := rfl
@[simp] theorem State.setSt_st (s : State) (b : Byte) : (s.setSt b).st = b := rfl
@[simp] theorem State.setSt_fb (s : State) (b : Byte) : (s.setSt b).fb = s.fb := rfl
@[simp] theorem State.setSt_drawn (s : State) (b : Byte) : (s.setSt b).drawn = s.drawn := rfl
@[simp] theorem State.setSt_key (s : State) (b : Byte) : (s.setSt b).key = s.key := rfl
@[simp] theorem State.setSt_clkI (s : State) (b : Byte) : (s.setSt b).clkI = s.clkI := rfl
@[simp] theorem State.setSt_clkT (s : State) (b : Byte) : (s.setSt b).clkT = s.clkT := rfl
@[simp] theorem State.setSt_offset (s : State) (b : Byte) : (s.setSt b).offset = s.offset := rfl
@[simp] theorem State.setSt_audio (s : State) (b : Byte) : (s.setSt b).audio = s.audio := rfl
@[simp] theorem State.setSt_run (s : State) (b : Byte) : (s.setSt b).run = s.run := rfl
@[simp] theorem State.setSt_mem (s : State) (b : Byte) : (s.setSt b).mem = s.mem := rfl
@[simp] theorem State.setSt_cfg (s : State) (b : Byte) : (s.setSt b).cfg = s.cfg := rfl
@[simp] theorem State.setSt_now (s : State) (b : Byte) : (s.setSt b).now = s.now := rfl
@[simp] theorem State.setSt_rnd (s : State) (b : Byte) : (s.setSt b).rnd = s.rnd := rfl
@[simp] theorem State.setSt_host (s : State) (b : Byte) : (s.setSt b).host = s.host := rfl
@[simp] theorem State.setSt_draws (s : State) (b : Byte) : (s.setSt b).draws = s.draws := rfl
@[simp] theorem State.setSt_outputs (s : State) (b : Byte) : (s.setSt b).outputs = s.outputs := rfl

@[simp] theorem State.draw_v (s : State) (f : Framebuffer) : (s.draw f).v = s.v := rfl
@[simp] theorem State.draw_i (s : State) (f : Framebuffer) : (s.draw f).i = s.i := rfl
@[simp] theorem State.draw_pc (s : State) (f : Framebuffer) : (s.draw f).pc = s.pc := rfl
@[simp] theorem State.draw_stack (s : State) (f : Framebuffer) : (s.draw f).stack = s.stack := rfl
@[simp] theorem State.draw_sp (s : State) (f : Framebuffer) : (s.draw f).sp = s.sp := rfl
@[simp] theorem State.draw_dt (s : State) (f : Framebuffer) : (s.draw f).dt = s.dt := rfl
@[simp] theorem State.draw_st (s : State) (f : Framebuffer) : (s.draw f).st = s.st := rfl
@[simp] theorem State.draw_fb (s : State) (f : Framebuffer) : (s.draw f).fb = f := rfl
@[simp] theorem State.draw_drawn (s : State) (f : Framebuffer) : (s.draw f).drawn = true := rfl
@[simp] theorem State.draw_key (s : State) (f : Framebuffer) : (s.draw f).key = s.key := rfl
@[simp] theorem State.draw_clkI (s : State) (f : Framebuffer) : (s.draw f).clkI = s.clkI := rfl
@[simp] theorem State.draw_clkT (s : State) (f : Framebuffer) : (s.draw f).clkT = s.clkT := rfl
@[simp] theorem State.draw_offset (s : State) (f : Framebuffer) : (s.draw f).offset = s.offset := rfl
@[simp] theorem State.draw_audio (s : State) (f : Framebuffer) : (s.draw f).audio = s.audio := rfl
@[simp] theorem State.draw_run (s : State) (f : Framebuffer) : (s.draw f).run = s.run := rfl
@[simp] theorem State.draw_mem (s : State) (f : Framebuffer) : (s.draw f).mem = s.mem := rfl
@[simp] theorem State.draw_cfg (s : State) (f : Framebuffer) : (s.draw f).cfg = s.cfg := rfl
@[simp] theorem State.draw_now (s : State) (f : Framebuffer) : (s.draw f).now = s.now := rfl
@[simp] theorem State.draw_rnd (s : State) (f : Framebuffer) : (s.draw f).rnd = s.rnd := rfl
@[simp] theorem State.draw_host (s : State) (f : Framebuffer) : (s.draw f).host = s.host := rfl
@[simp] theorem State.draw_draws (s : State) (f : Framebuffer) : (s.draw f).draws = s.draws := rfl
@[simp] theorem State.draw_outputs (s : State) (f : Framebuffer) : (s.draw f).outputs = s.outputs := rfl

@[simp] theorem State.emit_v (s : State) (o : Output) : (s.emit o).v = s.v := rfl
@[simp] theorem State.emit_i (s : State) (o : Output) : (s.emit o).i = s.i := rfl
@[simp] theorem State.emit_pc (s : State) (o : Output) : (s.emit o).pc = s.pc := rfl
@[simp] theorem State.emit_stack (s : State) (o : Output) : (s.emit o).stack = s.stack := rfl
@[simp] theorem State.emit_sp (s : State) (o : Output) : (s.emit o).sp = s.sp := rfl
@[simp] theorem State.emit_dt (s : State) (o : Output) : (s.emit o).dt = s.dt := rfl
@[simp] theorem State.emit_st (s : State) (o : Output) : (s.emit o).st = s.st := rfl
@[simp] theorem State.emit_fb (s : State) (o : Output) : (s.emit o).fb = s.fb := rfl
@[simp] theorem State.emit_drawn (s : State) (o : Output) : (s.emit o).drawn = s.drawn := rfl
@[simp] theorem State.emit_key (s : State) (o : Output) : (s.emit o).key = s.key := rfl
@[simp] theorem State.emit_clkI (s : State) (o : Output) : (s.emit o).clkI = s.clkI := rfl
@[simp] theorem State.emit_clkT (s : State) (o : Output) : (s.emit o).clkT = s.clkT := rfl
@[simp] theorem State.emit_offset (s : State) (o : Output) : (s.emit o).offset = s.offset := rfl
@[simp] theorem State.emit_audio (s : State) (o : Output) : (s.emit o).audio = s.audio := rfl
@[simp] theorem State.emit_run (s : State) (o : Output) : (s.emit o).run = s.run := rfl
@[simp] theorem State.emit_mem (s : State) (o : Output) : (s.emit o).mem = s.mem := rfl
@[simp] theorem State.emit_cfg (s : State) (o : Output) : (s.emit o).cfg = s.cfg := rfl
@[simp] theorem State.emit_now (s : State) (o : Output) : (s.emit o).now = s.now := rfl
@[simp] theorem State.emit_rnd (s : State) (o : Output) : (s.emit o).rnd = s.rnd := rfl
@[simp] theorem State.emit_host (s : State) (o : Output) : (s.emit o).host = s.host := rfl
@[simp] theorem State.emit_draws (s : State) (o : Output) : (s.emit o).draws = s.draws := rfl
@[simp] theorem State.emit_outputs (s : State) (o : Output) : (s.emit o).outputs = s.outputs ++ [o] := rfl

@[simp] theorem State.writeByte_v (s : State) (a : Nat) (b : Byte) : (s.writeByte a b).v = s.v := rfl
@[simp] theorem State.writeByte_i (s : State) (a : Nat) (b : Byte) : (s.writeByte a b).i = s.i := rfl
@[simp] theorem State.writeByte_pc (s : State) (a : Nat) (b : Byte) : (s.writeByte a b).pc = s.pc := rfl
@[simp] theorem State.writeByte_stack (s : State) (a : Nat) (b : Byte) : (s.writeByte a b).stack = s.stack := rfl
@[simp] theorem State.writeByte_sp (s : State) (a : Nat) (b : Byte) : (s.writeByte a b).sp = s.sp := rfl
@[simp] theorem State.writeByte_dt (s : State) (a : Nat) (b : Byte) : (s.writeByte a b).dt = s.dt := rfl
@[simp] theorem State.writeByte_st (s : State) (a : Nat) (b : Byte) : (s.writeByte a b).st = s.st := rfl
@[simp] theorem State.writeByte_fb (s : State) (a : Nat) (b : Byte) : (s.writeByte a b).fb = s.fb := rfl
@[simp] theorem State.writeByte_drawn (s : State) (a : Nat) (b : Byte) : (s.writeByte a b).drawn = s.drawn := rfl
@[simp] theorem State.writeByte_key (s : State) (a : Nat) (b : Byte) : (s.writeByte a b).key = s.key := rfl
@[simp] theorem State.writeByte_clkI (s : State) (a : Nat) (b : Byte) : (s.writeByte a b).clkI = s.clkI := rfl
@[simp] theorem State.writeByte_clkT (s : State) (a : Nat) (b : Byte) : (s.writeByte a b).clkT = s.clkT := rfl
@[simp] theorem State.writeByte_offset (s : State) (a : Nat) (b : Byte) : (s.writeByte a b).offset = s.offset := rfl
@[simp] theorem State.writeByte_audio (s : State) (a : Nat) (b : Byte) : (s.writeByte a b).audio = s.audio := rfl
@[simp] theorem State.writeByte_run (s : State) (a : Nat) (b : Byte) : (s.writeByte a b).run = s.run := rfl
@[simp] theorem State.writeByte_mem (s : State) (a : Nat) (b : Byte) : (s.writeByte a b).mem = Memory.write s.cfg.font s.mem a b := rfl
@[simp] theorem State.writeByte_cfg (s : State) (a : Nat) (b : Byte) : (s.writeByte a b).cfg = s.cfg := rfl
@[simp] theorem State.writeByte_now (s : State) (a : Nat) (b : Byte) : (s.writeByte a b).now = s.now := rfl
@[simp] theorem State.writeByte_rnd (s : State) (a : Nat) (b : Byte) : (s.writeByte a b).rnd = s.rnd := rfl
@[simp] theorem State.writeByte_host (s : State) (a : Nat) (b : Byte) : (s.writeByte a b).host = s.host := rfl
@[simp] theorem State.writeByte_draws (s : State) (a : Nat) (b : Byte) : (s.writeByte a b).draws = s.draws := rfl
@[simp] theorem State.writeByte_outputs (s : State) (a : Nat) (b : Byte) : (s.writeByte a b).outputs = s.outputs := rfl

@[simp] theorem State.takeFault_v (s : State) (f : Fault) : (s.takeFault f).v = s.v := rfl
@[simp] theorem State.takeFault_i (s : State) (f : Fault) : (s.takeFault f).i = s.i := rfl
@[simp] theorem State.takeFault_pc (s : State) (f : Fault) : (s.takeFault f).pc = s.pc := rfl
@[simp] theorem State.takeFault_stack (s : State) (f : Fault) : (s.takeFault f).stack = s.stack := rfl
@[simp] theorem State.takeFault_sp (s : State) (f : Fault) : (s.takeFault f).sp = s.sp := rfl
@[simp] theorem State.takeFault_dt (s : State) (f : Fault) : (s.takeFault f).dt = s.dt := rfl
@[simp] theorem State.takeFault_st (s : State) (f : Fault) : (s.takeFault f).st = s.st := rfl
@[simp] theorem State.takeFault_fb (s : State) (f : Fault) : (s.takeFault f).fb = s.fb := rfl
@[simp] theorem State.takeFault_drawn (s : State) (f : Fault) : (s.takeFault f).drawn = s.drawn := rfl
@[simp] theorem State.takeFault_key (s : State) (f : Fault) : (s.takeFault f).key = s.key := rfl
@[simp] theorem State.takeFault_clkI (s : State) (f : Fault) : (s.takeFault f).clkI = s.clkI := rfl
@[simp] theorem State.takeFault_clkT (s : State) (f : Fault) : (s.takeFault f).clkT = s.clkT := rfl
@[simp] theorem State.takeFault_offset (s : State) (f : Fault) : (s.takeFault f).offset = s.offset := rfl
@[simp] theorem State.takeFault_audio (s : State) (f : Fault) : (s.takeFault f).audio = s.audio := rfl
@[simp] theorem State.takeFault_run (s : State) (f : Fault) : (s.takeFault f).run = .faulted f := rfl
@[simp] theorem State.takeFault_mem (s : State) (f : Fault) : (s.takeFault f).mem = s.mem := rfl
@[simp] theorem State.takeFault_cfg (s : State) (f : Fault) : (s.takeFault f).cfg = s.cfg := rfl
@[simp] theorem State.takeFault_now (s : State) (f : Fault) : (s.takeFault f).now = s.now := rfl
@[simp] theorem State.takeFault_rnd (s : State) (f : Fault) : (s.takeFault f).rnd = s.rnd := rfl
@[simp] theorem State.takeFault_host (s : State) (f : Fault) : (s.takeFault f).host = s.host := rfl
@[simp] theorem State.takeFault_draws (s : State) (f : Fault) : (s.takeFault f).draws = s.draws := rfl
@[simp] theorem State.takeFault_outputs (s : State) (f : Fault) : (s.takeFault f).outputs = s.outputs := rfl

/-- A skip changes `PC` alone: by 4 when taken, by 2 when not (R101). -/
theorem State.skipIf_eq (s : State) (c : Bool) :
    s.skipIf c = { s with pc := if c then s.pc + 2 + 2 else s.pc + 2 } := by
  cases c <;> rfl

/-- Loads change the register file alone. -/
theorem State.loadBytes_eq (s : State) (base n : Nat) :
    s.loadBytes base n = { s with v := (s.loadBytes base n).v } := by
  induction n with
  | zero => rfl
  | succ k ih =>
    by_cases h : k < 16
    · rw [State.loadBytes, dif_pos h, ih]; rfl
    · rw [State.loadBytes, dif_neg h]; exact ih

/-- A load of `V0..VX` changes the register file alone (R191). -/
theorem State.loadRegs_eq (s : State) (x : Reg) (base : Nat) :
    s.loadRegs x base = { s with v := (s.loadRegs x base).v } := State.loadBytes_eq s base (x.val + 1)

/-- A run of stores changes memory alone. -/
theorem State.writeBytes_eq (s : State) (base : Nat) (bs : List Byte) :
    s.writeBytes base bs = { s with mem := (s.writeBytes base bs).mem } := by
  induction bs generalizing s base with
  | nil => rfl
  | cons b bs ih => exact ih (s.writeByte base b) (base + 1)

@[simp] theorem State.skipIf_v (s : State) (c : Bool) : (s.skipIf c).v = s.v := by rw [State.skipIf_eq]
@[simp] theorem State.skipIf_i (s : State) (c : Bool) : (s.skipIf c).i = s.i := by rw [State.skipIf_eq]
@[simp] theorem State.skipIf_pc (s : State) (c : Bool) : (s.skipIf c).pc = if c then s.pc + 2 + 2 else s.pc + 2 := by rw [State.skipIf_eq]
@[simp] theorem State.skipIf_stack (s : State) (c : Bool) : (s.skipIf c).stack = s.stack := by rw [State.skipIf_eq]
@[simp] theorem State.skipIf_sp (s : State) (c : Bool) : (s.skipIf c).sp = s.sp := by rw [State.skipIf_eq]
@[simp] theorem State.skipIf_dt (s : State) (c : Bool) : (s.skipIf c).dt = s.dt := by rw [State.skipIf_eq]
@[simp] theorem State.skipIf_st (s : State) (c : Bool) : (s.skipIf c).st = s.st := by rw [State.skipIf_eq]
@[simp] theorem State.skipIf_fb (s : State) (c : Bool) : (s.skipIf c).fb = s.fb := by rw [State.skipIf_eq]
@[simp] theorem State.skipIf_drawn (s : State) (c : Bool) : (s.skipIf c).drawn = s.drawn := by rw [State.skipIf_eq]
@[simp] theorem State.skipIf_key (s : State) (c : Bool) : (s.skipIf c).key = s.key := by rw [State.skipIf_eq]
@[simp] theorem State.skipIf_clkI (s : State) (c : Bool) : (s.skipIf c).clkI = s.clkI := by rw [State.skipIf_eq]
@[simp] theorem State.skipIf_clkT (s : State) (c : Bool) : (s.skipIf c).clkT = s.clkT := by rw [State.skipIf_eq]
@[simp] theorem State.skipIf_offset (s : State) (c : Bool) : (s.skipIf c).offset = s.offset := by rw [State.skipIf_eq]
@[simp] theorem State.skipIf_audio (s : State) (c : Bool) : (s.skipIf c).audio = s.audio := by rw [State.skipIf_eq]
@[simp] theorem State.skipIf_run (s : State) (c : Bool) : (s.skipIf c).run = s.run := by rw [State.skipIf_eq]
@[simp] theorem State.skipIf_mem (s : State) (c : Bool) : (s.skipIf c).mem = s.mem := by rw [State.skipIf_eq]
@[simp] theorem State.skipIf_cfg (s : State) (c : Bool) : (s.skipIf c).cfg = s.cfg := by rw [State.skipIf_eq]
@[simp] theorem State.skipIf_now (s : State) (c : Bool) : (s.skipIf c).now = s.now := by rw [State.skipIf_eq]
@[simp] theorem State.skipIf_rnd (s : State) (c : Bool) : (s.skipIf c).rnd = s.rnd := by rw [State.skipIf_eq]
@[simp] theorem State.skipIf_host (s : State) (c : Bool) : (s.skipIf c).host = s.host := by rw [State.skipIf_eq]
@[simp] theorem State.skipIf_draws (s : State) (c : Bool) : (s.skipIf c).draws = s.draws := by rw [State.skipIf_eq]
@[simp] theorem State.skipIf_outputs (s : State) (c : Bool) : (s.skipIf c).outputs = s.outputs := by rw [State.skipIf_eq]

@[simp] theorem State.loadRegs_i (s : State) (x : Reg) (base : Nat) :
    (s.loadRegs x base).i = s.i := by rw [State.loadRegs_eq]
@[simp] theorem State.loadRegs_pc (s : State) (x : Reg) (base : Nat) :
    (s.loadRegs x base).pc = s.pc := by rw [State.loadRegs_eq]
@[simp] theorem State.loadRegs_stack (s : State) (x : Reg) (base : Nat) :
    (s.loadRegs x base).stack = s.stack := by rw [State.loadRegs_eq]
@[simp] theorem State.loadRegs_sp (s : State) (x : Reg) (base : Nat) :
    (s.loadRegs x base).sp = s.sp := by rw [State.loadRegs_eq]
@[simp] theorem State.loadRegs_dt (s : State) (x : Reg) (base : Nat) :
    (s.loadRegs x base).dt = s.dt := by rw [State.loadRegs_eq]
@[simp] theorem State.loadRegs_st (s : State) (x : Reg) (base : Nat) :
    (s.loadRegs x base).st = s.st := by rw [State.loadRegs_eq]
@[simp] theorem State.loadRegs_fb (s : State) (x : Reg) (base : Nat) :
    (s.loadRegs x base).fb = s.fb := by rw [State.loadRegs_eq]
@[simp] theorem State.loadRegs_drawn (s : State) (x : Reg) (base : Nat) :
    (s.loadRegs x base).drawn = s.drawn := by rw [State.loadRegs_eq]
@[simp] theorem State.loadRegs_key (s : State) (x : Reg) (base : Nat) :
    (s.loadRegs x base).key = s.key := by rw [State.loadRegs_eq]
@[simp] theorem State.loadRegs_clkI (s : State) (x : Reg) (base : Nat) :
    (s.loadRegs x base).clkI = s.clkI := by rw [State.loadRegs_eq]
@[simp] theorem State.loadRegs_clkT (s : State) (x : Reg) (base : Nat) :
    (s.loadRegs x base).clkT = s.clkT := by rw [State.loadRegs_eq]
@[simp] theorem State.loadRegs_offset (s : State) (x : Reg) (base : Nat) :
    (s.loadRegs x base).offset = s.offset := by rw [State.loadRegs_eq]
@[simp] theorem State.loadRegs_audio (s : State) (x : Reg) (base : Nat) :
    (s.loadRegs x base).audio = s.audio := by rw [State.loadRegs_eq]
@[simp] theorem State.loadRegs_run (s : State) (x : Reg) (base : Nat) :
    (s.loadRegs x base).run = s.run := by rw [State.loadRegs_eq]
@[simp] theorem State.loadRegs_mem (s : State) (x : Reg) (base : Nat) :
    (s.loadRegs x base).mem = s.mem := by rw [State.loadRegs_eq]
@[simp] theorem State.loadRegs_cfg (s : State) (x : Reg) (base : Nat) :
    (s.loadRegs x base).cfg = s.cfg := by rw [State.loadRegs_eq]
@[simp] theorem State.loadRegs_now (s : State) (x : Reg) (base : Nat) :
    (s.loadRegs x base).now = s.now := by rw [State.loadRegs_eq]
@[simp] theorem State.loadRegs_rnd (s : State) (x : Reg) (base : Nat) :
    (s.loadRegs x base).rnd = s.rnd := by rw [State.loadRegs_eq]
@[simp] theorem State.loadRegs_host (s : State) (x : Reg) (base : Nat) :
    (s.loadRegs x base).host = s.host := by rw [State.loadRegs_eq]
@[simp] theorem State.loadRegs_draws (s : State) (x : Reg) (base : Nat) :
    (s.loadRegs x base).draws = s.draws := by rw [State.loadRegs_eq]
@[simp] theorem State.loadRegs_outputs (s : State) (x : Reg) (base : Nat) :
    (s.loadRegs x base).outputs = s.outputs := by rw [State.loadRegs_eq]

@[simp] theorem State.writeBytes_v (s : State) (base : Nat) (bs : List Byte) :
    (s.writeBytes base bs).v = s.v := by rw [State.writeBytes_eq]
@[simp] theorem State.writeBytes_i (s : State) (base : Nat) (bs : List Byte) :
    (s.writeBytes base bs).i = s.i := by rw [State.writeBytes_eq]
@[simp] theorem State.writeBytes_pc (s : State) (base : Nat) (bs : List Byte) :
    (s.writeBytes base bs).pc = s.pc := by rw [State.writeBytes_eq]
@[simp] theorem State.writeBytes_stack (s : State) (base : Nat) (bs : List Byte) :
    (s.writeBytes base bs).stack = s.stack := by rw [State.writeBytes_eq]
@[simp] theorem State.writeBytes_sp (s : State) (base : Nat) (bs : List Byte) :
    (s.writeBytes base bs).sp = s.sp := by rw [State.writeBytes_eq]
@[simp] theorem State.writeBytes_dt (s : State) (base : Nat) (bs : List Byte) :
    (s.writeBytes base bs).dt = s.dt := by rw [State.writeBytes_eq]
@[simp] theorem State.writeBytes_st (s : State) (base : Nat) (bs : List Byte) :
    (s.writeBytes base bs).st = s.st := by rw [State.writeBytes_eq]
@[simp] theorem State.writeBytes_fb (s : State) (base : Nat) (bs : List Byte) :
    (s.writeBytes base bs).fb = s.fb := by rw [State.writeBytes_eq]
@[simp] theorem State.writeBytes_drawn (s : State) (base : Nat) (bs : List Byte) :
    (s.writeBytes base bs).drawn = s.drawn := by rw [State.writeBytes_eq]
@[simp] theorem State.writeBytes_key (s : State) (base : Nat) (bs : List Byte) :
    (s.writeBytes base bs).key = s.key := by rw [State.writeBytes_eq]
@[simp] theorem State.writeBytes_clkI (s : State) (base : Nat) (bs : List Byte) :
    (s.writeBytes base bs).clkI = s.clkI := by rw [State.writeBytes_eq]
@[simp] theorem State.writeBytes_clkT (s : State) (base : Nat) (bs : List Byte) :
    (s.writeBytes base bs).clkT = s.clkT := by rw [State.writeBytes_eq]
@[simp] theorem State.writeBytes_offset (s : State) (base : Nat) (bs : List Byte) :
    (s.writeBytes base bs).offset = s.offset := by rw [State.writeBytes_eq]
@[simp] theorem State.writeBytes_audio (s : State) (base : Nat) (bs : List Byte) :
    (s.writeBytes base bs).audio = s.audio := by rw [State.writeBytes_eq]
@[simp] theorem State.writeBytes_run (s : State) (base : Nat) (bs : List Byte) :
    (s.writeBytes base bs).run = s.run := by rw [State.writeBytes_eq]
@[simp] theorem State.writeBytes_cfg (s : State) (base : Nat) (bs : List Byte) :
    (s.writeBytes base bs).cfg = s.cfg := by rw [State.writeBytes_eq]
@[simp] theorem State.writeBytes_now (s : State) (base : Nat) (bs : List Byte) :
    (s.writeBytes base bs).now = s.now := by rw [State.writeBytes_eq]
@[simp] theorem State.writeBytes_rnd (s : State) (base : Nat) (bs : List Byte) :
    (s.writeBytes base bs).rnd = s.rnd := by rw [State.writeBytes_eq]
@[simp] theorem State.writeBytes_host (s : State) (base : Nat) (bs : List Byte) :
    (s.writeBytes base bs).host = s.host := by rw [State.writeBytes_eq]
@[simp] theorem State.writeBytes_draws (s : State) (base : Nat) (bs : List Byte) :
    (s.writeBytes base bs).draws = s.draws := by rw [State.writeBytes_eq]
@[simp] theorem State.writeBytes_outputs (s : State) (base : Nat) (bs : List Byte) :
    (s.writeBytes base bs).outputs = s.outputs := by rw [State.writeBytes_eq]

/-- Reading a register after a write of one (R10, R20). -/
theorem State.reg_setReg (s : State) (x y : Reg) (b : Byte) :
    (s.setReg x b).reg y = if x = y then b else s.reg y := by
  simp only [State.reg, State.setReg, Vector.getElem_set, Fin.ext_iff]

@[simp] theorem State.reg_setReg_self (s : State) (x : Reg) (b : Byte) : (s.setReg x b).reg x = b := by
  simp [State.reg_setReg]

@[simp] theorem State.reg_setFlag_self (s : State) (b : Byte) : (s.setFlag b).reg regF = b :=
  State.reg_setReg_self s regF b

/-- The flag register is the only one `setFlag` writes (R21). -/
theorem State.reg_setFlag (s : State) (y : Reg) (b : Byte) :
    (s.setFlag b).reg y = if regF = y then b else s.reg y := State.reg_setReg s regF y b

theorem State.reg_loadBytes (s : State) (base n : Nat) (y : Reg) :
    (s.loadBytes base n).reg y = if y.val < n then s.readByte (base + y.val) else s.reg y := by
  induction n with
  | zero => simp [State.loadBytes]
  | succ k ih =>
    by_cases h : k < 16
    · rw [State.loadBytes, dif_pos h, State.reg_setReg, ih]
      by_cases e : (⟨k, h⟩ : Reg) = y
      · subst e; simp
      · have : k ≠ y.val := fun hk => e (Fin.ext hk)
        have hiff : y.val < k + 1 ↔ y.val < k := by omega
        simp [e, hiff]
    · have : y.val < k := by omega
      rw [State.loadBytes, dif_neg h, ih, if_pos this, if_pos (by omega)]

/-- After a load of `V0..VX`, those registers hold the bytes and the others are as before (R191). -/
theorem State.reg_loadRegs (s : State) (x y : Reg) (base : Nat) :
    (s.loadRegs x base).reg y = if y ≤ x then s.readByte (base + y.val) else s.reg y := by
  simp only [State.loadRegs, State.reg_loadBytes, Fin.le_def, Nat.lt_succ_iff]

/-- Two states with the same register contents have the same register file. -/
theorem State.v_ext {s t : State} (h : ∀ x, s.reg x = t.reg x) : s.v = t.v := by
  apply Vector.ext
  intro k hk
  exact h ⟨k, hk⟩

@[simp] theorem State.reg_setI (s : State) (w : Word) (y : Reg) : (s.setI w).reg y = s.reg y := rfl
@[simp] theorem State.reg_setPc (s : State) (w : Word) (y : Reg) : (s.setPc w).reg y = s.reg y := rfl
@[simp] theorem State.reg_advance (s : State) (y : Reg) : (s.advance).reg y = s.reg y := rfl
@[simp] theorem State.reg_setDt (s : State) (b : Byte) (y : Reg) : (s.setDt b).reg y = s.reg y := rfl
@[simp] theorem State.reg_setSt (s : State) (b : Byte) (y : Reg) : (s.setSt b).reg y = s.reg y := rfl
@[simp] theorem State.reg_draw (s : State) (f : Framebuffer) (y : Reg) : (s.draw f).reg y = s.reg y := rfl
@[simp] theorem State.reg_emit (s : State) (o : Output) (y : Reg) : (s.emit o).reg y = s.reg y := rfl
@[simp] theorem State.reg_writeByte (s : State) (a : Nat) (b : Byte) (y : Reg) : (s.writeByte a b).reg y = s.reg y := rfl
@[simp] theorem State.reg_takeFault (s : State) (f : Fault) (y : Reg) : (s.takeFault f).reg y = s.reg y := rfl
@[simp] theorem State.reg_skipIf (s : State) (c : Bool) (y : Reg) : (s.skipIf c).reg y = s.reg y := by
  rw [State.skipIf_eq]; rfl
@[simp] theorem State.reg_writeBytes (s : State) (base : Nat) (bs : List Byte) (y : Reg) :
    (s.writeBytes base bs).reg y = s.reg y := by
  rw [State.writeBytes_eq]; rfl

@[simp] theorem State.readByte_setReg (s : State) (x : Reg) (b : Byte) (a : Nat) : (s.setReg x b).readByte a = s.readByte a := rfl
@[simp] theorem State.readByte_setFlag (s : State) (b : Byte) (a : Nat) : (s.setFlag b).readByte a = s.readByte a := rfl
@[simp] theorem State.readByte_setI (s : State) (w : Word) (a : Nat) : (s.setI w).readByte a = s.readByte a := rfl
@[simp] theorem State.readByte_setPc (s : State) (w : Word) (a : Nat) : (s.setPc w).readByte a = s.readByte a := rfl
@[simp] theorem State.readByte_advance (s : State) (a : Nat) : (s.advance).readByte a = s.readByte a := rfl
@[simp] theorem State.readByte_setDt (s : State) (b : Byte) (a : Nat) : (s.setDt b).readByte a = s.readByte a := rfl
@[simp] theorem State.readByte_setSt (s : State) (b : Byte) (a : Nat) : (s.setSt b).readByte a = s.readByte a := rfl
@[simp] theorem State.readByte_draw (s : State) (f : Framebuffer) (a : Nat) : (s.draw f).readByte a = s.readByte a := rfl
@[simp] theorem State.readByte_emit (s : State) (o : Output) (a : Nat) : (s.emit o).readByte a = s.readByte a := rfl
@[simp] theorem State.readByte_takeFault (s : State) (f : Fault) (a : Nat) : (s.takeFault f).readByte a = s.readByte a := rfl
@[simp] theorem State.readByte_skipIf (s : State) (c : Bool) (a : Nat) : (s.skipIf c).readByte a = s.readByte a := by
  rw [State.skipIf_eq]; rfl
@[simp] theorem State.readByte_loadRegs (s : State) (x : Reg) (base a : Nat) :
    (s.loadRegs x base).readByte a = s.readByte a := by
  rw [State.loadRegs_eq]; rfl

end Sys2Proof.Machine
end

