-- ==== Sys2Proof/Laws/Memory.lean ====
section
/-! SUPPORT. Memory: a read after a write, and the canonical form that every operation keeps. -/

namespace Sys2Proof.Machine

theorem Memory.read_place (font : Vector Byte 80) (m : Memory) (a a' : Nat) (b : Byte)
    (h : ∀ c ∈ m, c.1 ≠ a) :
    Memory.read font (Memory.place a b m) a' = if a = a' then b else Memory.read font m a' := by
  induction m with
  | nil => by_cases e : a = a' <;> simp [Memory.place, Memory.read, e]
  | cons c rest ih =>
    have hc : c.1 ≠ a := h c (by simp)
    have hr := ih fun d hd => h d (by simp [hd])
    by_cases hlt : a < c.1
    · simp [Memory.place, Memory.read, hlt]
    · by_cases e : a = a'
      · subst e; simpa [Memory.place, Memory.read, hlt, hc] using hr
      · simp [Memory.place, Memory.read, hlt, hr, e]

theorem Memory.read_filter (font : Vector Byte 80) (m : Memory) (a a' : Nat) :
    Memory.read font (m.filter fun c => c.1 != a) a'
      = if a = a' then Memory.base font a else Memory.read font m a' := by
  induction m with
  | nil => by_cases e : a = a' <;> simp [Memory.read, e]
  | cons c rest ih =>
    by_cases hc : c.1 = a
    · by_cases e : a = a'
      · subst e; simpa [hc] using ih
      · have : c.1 ≠ a' := fun h => e (hc.symm.trans h)
        simpa [hc, Memory.read, e] using ih
    · by_cases e : a = a'
      · subst e; simp [hc, ih, Memory.read]
      · simp [hc, ih, Memory.read, e]

/-- A read after a write gives the byte written there and leaves every other address alone (R66). -/
theorem Memory.read_write (font : Vector Byte 80) (m : Memory) (a a' : Nat) (b : Byte) :
    Memory.read font (Memory.write font m a b) a' = if a = a' then b else Memory.read font m a' := by
  unfold Memory.write
  by_cases hb : b = Memory.base font a
  · simp [hb, Memory.read_filter]
  · simp only [hb, if_false]
    rw [Memory.read_place _ _ _ _ _ (by intro c hc; simpa using (List.mem_filter.mp hc).2), Memory.read_filter]
    by_cases e : a = a' <;> simp [e]

/-- The canonical form as a proposition: pairwise rising addresses, each cell inside memory and unlike its base. -/
theorem Memory.wf_iff (font : Vector Byte 80) (m : Memory) :
    Memory.wf font m = true ↔
      m.Pairwise (fun c d => c.1 < d.1) ∧ ∀ c ∈ m, c.1 < 0x1000 ∧ c.2 ≠ Memory.base font c.1 := by
  have hr : ∀ m : Memory, Memory.rising m = true ↔ m.Pairwise (fun c d => c.1 < d.1) := by
    intro m
    induction m with
    | nil => simp [Memory.rising]
    | cons c rest ih => simp [Memory.rising, ih, List.all_eq_true]
  simp [Memory.wf, hr, List.all_eq_true]

theorem Memory.mem_place {a : Nat} {b : Byte} {m : Memory} {c : Host.Cell} :
    c ∈ Memory.place a b m ↔ c = (a, b) ∨ c ∈ m := by
  induction m with
  | nil => simp [Memory.place]
  | cons d rest ih =>
    by_cases h : a < d.1
    · simp [Memory.place, h]
    · simp [Memory.place, h, ih, or_left_comm]

theorem Memory.pairwise_place {a : Nat} {b : Byte} {m : Memory}
    (hm : m.Pairwise (fun c d => c.1 < d.1)) (h : ∀ c ∈ m, c.1 ≠ a) :
    (Memory.place a b m).Pairwise (fun c d => c.1 < d.1) := by
  induction m with
  | nil => simp [Memory.place]
  | cons d rest ih =>
    obtain ⟨hd, hrest⟩ := List.pairwise_cons.mp hm
    by_cases hlt : a < d.1
    · simp only [Memory.place, hlt, if_true, List.pairwise_cons]
      exact ⟨fun c hc => by
        rcases List.mem_cons.mp hc with rfl | hc
        · exact hlt
        · exact Nat.lt_trans hlt (hd c hc), hd, hrest⟩
    · simp only [Memory.place, hlt, if_false, List.pairwise_cons]
      refine ⟨fun c hc => ?_, ih hrest fun c hc => h c (by simp [hc])⟩
      rcases Memory.mem_place.mp hc with rfl | hc
      · have := h d (by simp)
        show d.1 < a
        omega
      · exact hd c hc

/-- A write inside the space keeps the canonical form. -/
theorem Memory.wf_write {font : Vector Byte 80} {m : Memory} {a : Nat} {b : Byte}
    (hm : Memory.wf font m = true) (ha : a < 0x1000) : Memory.wf font (Memory.write font m a b) = true := by
  obtain ⟨hp, hc⟩ := (Memory.wf_iff font m).mp hm
  have hp' := hp.filter (fun c : Host.Cell => c.1 != a)
  have hc' : ∀ c ∈ m.filter (fun c => c.1 != a), c.1 < 0x1000 ∧ c.2 ≠ Memory.base font c.1 :=
    fun c h => hc c (List.mem_filter.mp h).1
  rw [Memory.wf_iff]
  unfold Memory.write
  by_cases hb : b = Memory.base font a
  · simpa [hb] using And.intro hp' hc'
  · simp only [hb, if_false]
    refine ⟨Memory.pairwise_place hp' fun c h => by simpa using (List.mem_filter.mp h).2, fun c h => ?_⟩
    rcases Memory.mem_place.mp h with rfl | h
    · exact ⟨ha, hb⟩
    · exact hc' c h

/-- Reset memory, with nothing listed, is canonical. -/
theorem Memory.wf_nil (font : Vector Byte 80) : Memory.wf font [] = true := rfl

/-! ## Bytes through the state -/

theorem State.readByte_writeByte (s : State) (a a' : Nat) (b : Byte) :
    (s.writeByte a b).readByte a' = if a = a' then b else s.readByte a' :=
  Memory.read_write s.cfg.font s.mem a a' b

/-- After a run of stores from `base`, the stored addresses hold the bytes and every other address is as before. -/
theorem State.readByte_writeBytes (s : State) (base a : Nat) (bs : List Byte) :
    (s.writeBytes base bs).readByte a =
      if h : base ≤ a ∧ a < base + bs.length then bs[a - base]'(by omega) else s.readByte a := by
  induction bs generalizing s base with
  | nil =>
    simp [State.writeBytes]
  | cons b bs ih =>
    simp only [State.writeBytes, ih, State.readByte_writeByte, List.length_cons]
    by_cases h1 : base + 1 ≤ a ∧ a < base + 1 + bs.length
    · have h2 : base ≤ a ∧ a < base + (bs.length + 1) := by omega
      have h3 : a - base = (a - (base + 1)) + 1 := by omega
      simp [h1, h2, h3]
    · by_cases h4 : base = a
      · subst h4; simp
      · have h5 : ¬(base ≤ a ∧ a < base + (bs.length + 1)) := by omega
        rw [dif_neg h1, dif_neg h5, if_neg h4]

/-- A run of stores inside the space keeps the canonical form. -/
theorem State.wf_writeBytes (s : State) (base : Nat) (bs : List Byte)
    (hm : Memory.wf s.cfg.font s.mem = true) (h : base + bs.length ≤ 0x1000) :
    Memory.wf s.cfg.font (s.writeBytes base bs).mem = true := by
  induction bs generalizing s base with
  | nil => exact hm
  | cons b bs ih =>
    simp only [List.length_cons] at h
    exact ih (s.writeByte base b) (base + 1) (Memory.wf_write hm (by omega)) (by omega)

end Sys2Proof.Machine
end

