-- ==== Sys2Proof/Laws/Ops.lean ====
section
/-! SUPPORT. What the stack operations, the range check, the fetch and the operand computations can do. -/

namespace Sys2Proof.Machine

/-! ## Stack (R28) -/

/-- A push with room stores at `SP`, raises `SP` and changes nothing else. -/
theorem State.push_of_lt {s : State} (h : s.sp.val < 16) (w : Word) :
    s.push w = some { s with stack := s.stack.set s.sp.val w h, sp := ⟨s.sp.val + 1, by omega⟩ } := by
  simp [State.push, h]

theorem State.push_eq_none {s : State} (w : Word) : s.push w = none ↔ s.sp.val = 16 := by
  have := s.sp.isLt
  unfold State.push
  split <;> simp <;> omega

/-- A pop of a stack in use reads the entry below `SP`, lowers `SP` and changes nothing else. -/
theorem State.pop_of_pos {s : State} (h : s.sp.val ≠ 0) :
    s.pop = some (s.stack[s.sp.val - 1]'(by omega), { s with sp := ⟨s.sp.val - 1, by omega⟩ }) := by
  simp [State.pop, h]

theorem State.pop_eq_none {s : State} : s.pop = none ↔ s.sp.val = 0 := by
  unfold State.pop
  split <;> simp_all

/-! ## Range check (R64) -/

theorem firstBeyond_eq_none {base n : Nat} : firstBeyond base n = none ↔ n = 0 ∨ base + n ≤ 0x1000 := by
  unfold firstBeyond
  split <;> simp <;> omega

theorem firstBeyond_eq_some {base n a : Nat} :
    firstBeyond base n = some a ↔ 0 < n ∧ 0x1000 < base + n ∧ a = max base 0x1000 := by
  unfold firstBeyond
  split <;> simp <;> omega

/-! ## Fetch (R62) -/

theorem State.fetch_of_le {s : State} (h : s.pc.toNat ≤ 0xFFE) :
    s.fetch = .ok (wordOfBytes (s.readByte s.pc.toNat) (s.readByte (s.pc.toNat + 1))) := by
  unfold State.fetch
  rw [if_neg (by omega)]

theorem State.fetch_of_gt {s : State} (h : 0xFFE < s.pc.toNat) : s.fetch = .error (.fetchOutOfRange s.pc) := by
  unfold State.fetch
  rw [if_pos h]

theorem State.fetch_ok {s : State} {w : Word} (h : s.fetch = .ok w) :
    s.pc.toNat ≤ 0xFFE ∧ w = wordOfBytes (s.readByte s.pc.toNat) (s.readByte (s.pc.toNat + 1)) := by
  unfold State.fetch at h
  split at h
  · cases h
  · exact ⟨by omega, by cases h; rfl⟩

theorem State.fetch_error {s : State} {f : Fault} (h : s.fetch = .error f) :
    0xFFE < s.pc.toNat ∧ f = .fetchOutOfRange s.pc := by
  unfold State.fetch at h
  split at h
  · exact ⟨‹_›, by cases h; rfl⟩
  · cases h

/-! ## Operands -/

@[simp] theorem addr16_toNat (a : Addr12) : (addr16 a).toNat = a.toNat := by
  have := a.isLt
  simp [addr16]
  omega

@[simp] theorem addByte_eq (a b : Byte) : addByte a b = a + b := by
  apply BitVec.eq_of_toNat_eq
  simp [addByte, BitVec.toNat_add]

theorem subByte_toNat (a b : Byte) : (subByte a b).toNat = (a.toNat + (256 - b.toNat)) % 256 := by
  have := a.isLt
  have := b.isLt
  simp [subByte, BitVec.toNat_ofInt]
  omega

@[simp] theorem subByte_eq (a b : Byte) : subByte a b = a - b := by
  apply BitVec.eq_of_toNat_eq
  have := a.isLt
  have := b.isLt
  rw [subByte_toNat, BitVec.toNat_sub]
  omega

theorem shrByte_toNat (v : Byte) : (shrByte v).toNat = v.toNat / 2 := by
  have := v.isLt
  simp [shrByte]
  omega

theorem shlByte_toNat (v : Byte) : (shlByte v).toNat = v.toNat * 2 % 256 := by
  simp [shlByte]

/-- The target of `BNNN` is the exact sum, at most `0x10FE` (R109). -/
theorem jumpV0Target_toNat (b : Byte) (a : Addr12) : (jumpV0Target b a).toNat = b.toNat + a.toNat := by
  have := a.isLt
  have := b.isLt
  simp [jumpV0Target]
  omega

/-- The glyph address is the exact value, at most `0x54B` (R188). -/
theorem glyphAddress_toNat (b : Byte) : (glyphAddress b).toNat = 0x050 + 5 * b.toNat := by
  have := b.isLt
  simp [glyphAddress]
  omega

@[simp] theorem keyByte_toNat (k : Key) : (keyByte k).toNat = k.val := by
  have := k.isLt
  simp [keyByte]
  omega

@[simp] theorem bcdDigits_length (b : Byte) : (bcdDigits b).length = 3 := rfl

theorem State.regsUpTo_length (s : State) (x : Reg) : (s.regsUpTo x).length = x.val + 1 := by
  simp [State.regsUpTo]

theorem State.regsUpTo_getElem (s : State) (x : Reg) (k : Nat) (h : k < (s.regsUpTo x).length) :
    (s.regsUpTo x)[k] = s.reg ⟨k, by have := s.regsUpTo_length x; omega⟩ := by
  simp [State.regsUpTo, State.reg]

@[simp] theorem State.readBytes_length (s : State) (base n : Nat) : (s.readBytes base n).length = n := by
  simp [State.readBytes]

theorem State.readBytes_getElem (s : State) (base n k : Nat) (h : k < (s.readBytes base n).length) :
    (s.readBytes base n)[k] = s.readByte (base + k) := by
  simp [State.readBytes]

end Sys2Proof.Machine
end

