-- ==== Sys2Proof/Laws/Display.lean ====
section
/-! SUPPORT. The pixels a `DXYN` toggles are those whose sprite bit is set, each once, in the order of R162. -/

namespace Sys2Proof.Machine

theorem State.mem_drawnPixels {s : State} {x y : Reg} {n : Fin 16} {p : Nat × Nat} :
    p ∈ s.drawnPixels x y n ↔ s.spriteBit x y n p.1 p.2 = true := by
  simp only [State.drawnPixels, mem_spritePixels, State.readBytes_length, State.readBytes_getElem,
    State.spriteBit, Bool.and_eq_true, decide_eq_true_eq]
  constructor
  · rintro ⟨h, h1, h2, hb⟩
    exact ⟨⟨h1, h2, h.1, h.2⟩, hb⟩
  · rintro ⟨⟨h1, h2, h3, h4⟩, hb⟩
    exact ⟨⟨h3, h4⟩, h1, h2, hb⟩

theorem State.nodup_drawnPixels (s : State) (x y : Reg) (n : Fin 16) : (s.drawnPixels x y n).Nodup :=
  nodup_spritePixels _ _ _

theorem State.pairwise_drawnPixels (s : State) (x y : Reg) (n : Fin 16) :
    (s.drawnPixels x y n).Pairwise PixelBefore := pairwise_spritePixels _ _ _

theorem offScreen_eq_false {p : Nat × Nat} : offScreen p = false ↔ p.1 < 64 ∧ p.2 < 32 := by
  simp [offScreen]

theorem offScreen_eq_true {p : Nat × Nat} : offScreen p = true ↔ 64 ≤ p.1 ∨ 32 ≤ p.2 := by
  simp [offScreen]

end Sys2Proof.Machine
end

