-- ==== Sys2Proof/Laws/Exec.lean ====
section
/-! SUPPORT. What executing an instruction can write, once for all of them. -/

namespace Sys2Proof.Machine

/-- An instruction that answers a next state writes at most registers, `I`, `PC`, stack, timers, framebuffer, drawn
flag, memory, the draw counter and the outputs. -/
theorem exec_next {i : Instr} {s t : State} (h : exec i s = .next t) :
    t = { s with v := t.v, i := t.i, pc := t.pc, stack := t.stack, sp := t.sp, dt := t.dt, st := t.st, fb := t.fb,
                 drawn := t.drawn, mem := t.mem, draws := t.draws, outputs := t.outputs } := by
  cases i
  case ret =>
    by_cases hs : s.sp.val = 0
    · simp only [exec, execRet, State.pop_eq_none.mpr hs] at h
      cases h
    · simp only [exec, execRet, State.pop_of_pos hs] at h
      cases h; rfl
  case call nnn =>
    by_cases hs : s.sp.val < 16
    · simp only [exec, execCall, State.push_of_lt hs] at h
      cases h; rfl
    · simp only [exec, execCall, (State.push_eq_none (s := s) s.pc).mpr (by have := s.sp.isLt; omega)] at h
      cases h
  case rnd x nn =>
    simp only [exec, execRnd] at h
    split at h
    · split at h
      · cases h; rfl
      · cases h
    · cases h; rfl
  case drw x y n =>
    simp only [exec, execDrw] at h
    split at h
    · cases h
    · split at h
      · cases h
      · cases h; rfl
  case ldVxK x =>
    simp only [exec, execLdVxK] at h
    split at h <;> (cases h; rfl)
  case ldBVx x =>
    simp only [exec, execLdBVx] at h
    split at h
    · cases h
    · cases h; rw [State.writeBytes_eq]; rfl
  case ldMemVx x =>
    simp only [exec, execLdMemVx] at h
    split at h
    · cases h
    · cases h; rw [State.writeBytes_eq]; rfl
  case ldVxMem x =>
    simp only [exec, execLdVxMem] at h
    split at h
    · cases h
    · cases h; rw [State.loadRegs_eq]; rfl
  case seImm | sneImm | seReg | sneReg | skp | sknp =>
    simp only [exec, execSeImm, execSneImm, execSeReg, execSneReg, execSkp, execSknp, State.skipIf_eq] at h
    cases h; rfl
  all_goals (cases h; rfl)

/-- What an instruction that answers a next state does to the drawn flag and the outputs: the drawing ones set the flag,
and at most one `Unrecognized` event is logged. -/
theorem exec_drawn_outputs {i : Instr} {s t : State} (h : exec i s = .next t) :
    t.drawn = (s.drawn || mayDraw i) ∧
      (t.outputs = s.outputs ∨ ∃ code pc w, t.outputs = s.outputs ++ [.unrecognized code pc w]) := by
  have same : ∀ u : State, u.drawn = s.drawn → u.outputs = s.outputs →
      u.drawn = (s.drawn || false) ∧
        (u.outputs = s.outputs ∨ ∃ code pc w, u.outputs = s.outputs ++ [.unrecognized code pc w]) :=
    fun u hd ho => ⟨by rw [hd, Bool.or_false], Or.inl ho⟩
  have drew : ∀ u : State, u.drawn = true → u.outputs = s.outputs →
      u.drawn = (s.drawn || true) ∧
        (u.outputs = s.outputs ∨ ∃ code pc w, u.outputs = s.outputs ++ [.unrecognized code pc w]) :=
    fun u hd ho => ⟨by rw [hd, Bool.or_true], Or.inl ho⟩
  cases i
  case cls => cases h; exact drew _ rfl rfl
  case drw x y n =>
    simp only [exec, execDrw] at h
    split at h
    · cases h
    · split at h
      · cases h
      · cases h; exact drew _ rfl rfl
  case ret =>
    by_cases hs : s.sp.val = 0
    · simp only [exec, execRet, State.pop_eq_none.mpr hs] at h
      cases h
    · simp only [exec, execRet, State.pop_of_pos hs] at h
      cases h; exact same _ rfl rfl
  case call nnn =>
    by_cases hs : s.sp.val < 16
    · simp only [exec, execCall, State.push_of_lt hs] at h
      cases h; exact same _ rfl rfl
    · simp only [exec, execCall, (State.push_eq_none (s := s) s.pc).mpr (by have := s.sp.isLt; omega)] at h
      cases h
  case rnd x nn =>
    simp only [exec, execRnd] at h
    split at h
    · split at h
      · cases h; exact same _ rfl rfl
      · cases h
    · cases h; exact same _ rfl rfl
  case ldVxK x =>
    simp only [exec, execLdVxK] at h
    split at h <;> (cases h; exact same _ rfl rfl)
  case ldBVx x =>
    simp only [exec, execLdBVx] at h
    split at h
    · cases h
    · cases h; rw [State.writeBytes_eq]; exact same _ rfl rfl
  case ldMemVx x =>
    simp only [exec, execLdMemVx] at h
    split at h
    · cases h
    · cases h; rw [State.writeBytes_eq]; exact same _ rfl rfl
  case ldVxMem x =>
    simp only [exec, execLdVxMem] at h
    split at h
    · cases h
    · cases h; rw [State.loadRegs_eq]; exact same _ rfl rfl
  case seImm | sneImm | seReg | sneReg | skp | sknp =>
    simp only [exec, execSeImm, execSneImm, execSeReg, execSneReg, execSkp, execSknp, State.skipIf_eq] at h
    cases h; exact same _ rfl rfl
  all_goals first
    | (cases h; exact same _ rfl rfl)
    | (cases h; exact ⟨(Bool.or_false _).symm, Or.inr ⟨_, _, _, rfl⟩⟩)

/-- `FX33` answers a next state only inside memory, and then stores the three digits at `I` and advances (R189). -/
theorem execLdBVx_next {x : Reg} {s t : State} (h : execLdBVx x s = .next t) :
    s.i.toNat ≤ 0xFFD ∧ t = (s.writeBytes s.i.toNat (bcdDigits (s.reg x))).advance := by
  unfold execLdBVx at h
  split at h
  · cases h
  · rename_i hb
    rw [firstBeyond_eq_none] at hb
    cases h
    exact ⟨by omega, rfl⟩

/-- `FX55` answers a next state only inside memory, and then stores `V0..VX` at `I` and advances (R190). -/
theorem execLdMemVx_next {x : Reg} {s t : State} (h : execLdMemVx x s = .next t) :
    s.i.toNat + x.val ≤ 0xFFF ∧ t = (s.writeBytes s.i.toNat (s.regsUpTo x)).advance := by
  unfold execLdMemVx at h
  split at h
  · cases h
  · rename_i hb
    rw [firstBeyond_eq_none] at hb
    cases h
    exact ⟨by omega, rfl⟩

end Sys2Proof.Machine
end

