-- ==== Sys2Proof/Laws/PerInstr.lean ====
section
/-! SUPPORT. Per instruction: the family nibble of its word (spec/30_encoding.md R81, R89). -/

namespace Sys2Proof

/-- The family `w[15:12]` of each instruction's words (R89). -/
def familyOf : Instr → BitVec 4
  | .cls => 0x0#4
  | .ret => 0x0#4
  | .jp _ => 0x1#4
  | .call _ => 0x2#4
  | .seImm _ _ => 0x3#4
  | .sneImm _ _ => 0x4#4
  | .seReg _ _ => 0x5#4
  | .ldImm _ _ => 0x6#4
  | .addImm _ _ => 0x7#4
  | .ldReg _ _ => 0x8#4
  | .orReg _ _ => 0x8#4
  | .andReg _ _ => 0x8#4
  | .xorReg _ _ => 0x8#4
  | .addReg _ _ => 0x8#4
  | .subReg _ _ => 0x8#4
  | .shr _ _ => 0x8#4
  | .shl _ _ => 0x8#4
  | .sneReg _ _ => 0x9#4
  | .ldI _ => 0xA#4
  | .jpV0 _ => 0xB#4
  | .rnd _ _ => 0xC#4
  | .drw _ _ _ => 0xD#4
  | .skp _ => 0xE#4
  | .sknp _ => 0xE#4
  | .ldVxDt _ => 0xF#4
  | .ldVxK _ => 0xF#4
  | .ldDtVx _ => 0xF#4
  | .ldStVx _ => 0xF#4
  | .addIVx _ => 0xF#4
  | .ldFVx _ => 0xF#4
  | .ldBVx _ => 0xF#4
  | .ldMemVx _ => 0xF#4
  | .ldVxMem _ => 0xF#4
  | .unrec8xy7 _ _ => 0x8#4
  | .unrec8xy8 _ _ => 0x8#4
  | .unrec8xy9 _ _ => 0x8#4
  | .unrec8xyA _ _ => 0x8#4
  | .unrec8xyB _ _ => 0x8#4
  | .unrec8xyC _ _ => 0x8#4
  | .unrec8xyD _ _ => 0x8#4
  | .unrec8xyF _ _ => 0x8#4
  | .unrec0 _ => 0x0#4
  | .unrecE _ _ => 0xE#4
  | .unrecF _ _ => 0xF#4

end Sys2Proof

namespace Sys2Proof.Laws.Family

/-- The high nibble of the encoded word is the instruction's family. -/
def Statement (i : Instr) : Prop := fieldF (encode i) = familyOf i

theorem cls : Statement .cls := rfl
theorem ret : Statement .ret := rfl
theorem jp (nnn : Addr12) : Statement (.jp nnn) := fieldF_formNNN _ _
theorem call (nnn : Addr12) : Statement (.call nnn) := fieldF_formNNN _ _
theorem seImm (x : Reg) (nn : Byte) : Statement (.seImm x nn) := fieldF_formXNN _ _ _
theorem sneImm (x : Reg) (nn : Byte) : Statement (.sneImm x nn) := fieldF_formXNN _ _ _
theorem seReg (x y : Reg) : Statement (.seReg x y) := fieldF_formXYN _ _ _ _
theorem ldImm (x : Reg) (nn : Byte) : Statement (.ldImm x nn) := fieldF_formXNN _ _ _
theorem addImm (x : Reg) (nn : Byte) : Statement (.addImm x nn) := fieldF_formXNN _ _ _
theorem ldReg (x y : Reg) : Statement (.ldReg x y) := fieldF_formXYN _ _ _ _
theorem orReg (x y : Reg) : Statement (.orReg x y) := fieldF_formXYN _ _ _ _
theorem andReg (x y : Reg) : Statement (.andReg x y) := fieldF_formXYN _ _ _ _
theorem xorReg (x y : Reg) : Statement (.xorReg x y) := fieldF_formXYN _ _ _ _
theorem addReg (x y : Reg) : Statement (.addReg x y) := fieldF_formXYN _ _ _ _
theorem subReg (x y : Reg) : Statement (.subReg x y) := fieldF_formXYN _ _ _ _
theorem shr (x y : Reg) : Statement (.shr x y) := fieldF_formXYN _ _ _ _
theorem shl (x y : Reg) : Statement (.shl x y) := fieldF_formXYN _ _ _ _
theorem sneReg (x y : Reg) : Statement (.sneReg x y) := fieldF_formXYN _ _ _ _
theorem ldI (nnn : Addr12) : Statement (.ldI nnn) := fieldF_formNNN _ _
theorem jpV0 (nnn : Addr12) : Statement (.jpV0 nnn) := fieldF_formNNN _ _
theorem rnd (x : Reg) (nn : Byte) : Statement (.rnd x nn) := fieldF_formXNN _ _ _
theorem drw (x y : Reg) (n : Fin 16) : Statement (.drw x y n) := fieldF_formXYN _ _ _ _
theorem skp (x : Reg) : Statement (.skp x) := fieldF_formXNN _ _ _
theorem sknp (x : Reg) : Statement (.sknp x) := fieldF_formXNN _ _ _
theorem ldVxDt (x : Reg) : Statement (.ldVxDt x) := fieldF_formXNN _ _ _
theorem ldVxK (x : Reg) : Statement (.ldVxK x) := fieldF_formXNN _ _ _
theorem ldDtVx (x : Reg) : Statement (.ldDtVx x) := fieldF_formXNN _ _ _
theorem ldStVx (x : Reg) : Statement (.ldStVx x) := fieldF_formXNN _ _ _
theorem addIVx (x : Reg) : Statement (.addIVx x) := fieldF_formXNN _ _ _
theorem ldFVx (x : Reg) : Statement (.ldFVx x) := fieldF_formXNN _ _ _
theorem ldBVx (x : Reg) : Statement (.ldBVx x) := fieldF_formXNN _ _ _
theorem ldMemVx (x : Reg) : Statement (.ldMemVx x) := fieldF_formXNN _ _ _
theorem ldVxMem (x : Reg) : Statement (.ldVxMem x) := fieldF_formXNN _ _ _
theorem unrec8xy7 (x y : Reg) : Statement (.unrec8xy7 x y) := fieldF_formXYN _ _ _ _
theorem unrec8xy8 (x y : Reg) : Statement (.unrec8xy8 x y) := fieldF_formXYN _ _ _ _
theorem unrec8xy9 (x y : Reg) : Statement (.unrec8xy9 x y) := fieldF_formXYN _ _ _ _
theorem unrec8xyA (x y : Reg) : Statement (.unrec8xyA x y) := fieldF_formXYN _ _ _ _
theorem unrec8xyB (x y : Reg) : Statement (.unrec8xyB x y) := fieldF_formXYN _ _ _ _
theorem unrec8xyC (x y : Reg) : Statement (.unrec8xyC x y) := fieldF_formXYN _ _ _ _
theorem unrec8xyD (x y : Reg) : Statement (.unrec8xyD x y) := fieldF_formXYN _ _ _ _
theorem unrec8xyF (x y : Reg) : Statement (.unrec8xyF x y) := fieldF_formXYN _ _ _ _
theorem unrec0 (nnn : Addr12) : Statement (.unrec0 nnn) := fieldF_formNNN _ _
theorem unrecE (x : Reg) (nn : Byte) : Statement (.unrecE x nn) := fieldF_formXNN _ _ _
theorem unrecF (x : Reg) (nn : Byte) : Statement (.unrecF x nn) := fieldF_formXNN _ _ _

end Sys2Proof.Laws.Family
end

