-- ==== Sys2Proof/Laws/Scheduler.lean ====
section
/-! SUPPORT. What the cadence checks, the phases after an instruction, and the taking of the inputs do to State. -/

namespace Sys2Proof.Machine

/-! ## Cadence checks (R229) -/

theorem ready_of_le {clk now : Int} {period : Nat} (h : (period : Int) ≤ now - clk) :
    ready clk now period = (true, clk + period) := by
  simp [ready, h]

theorem ready_of_lt {clk now : Int} {period : Nat} (h : now - clk < (period : Int)) :
    ready clk now period = (false, clk) := by
  simp [ready, not_le.mpr h]

/-- A check never puts the marker ahead of a time it was not ahead of. -/
theorem ready_le_now {clk now : Int} {period : Nat} (h : clk ≤ now) : (ready clk now period).2 ≤ now := by
  by_cases h' : (period : Int) ≤ now - clk
  · rw [ready_of_le h']
    show clk + (period : Int) ≤ now
    omega
  · rw [ready_of_lt (not_le.mp h')]
    exact h

theorem State.instrFires_iff (s : State) :
    s.instrFires = true ↔ ((s.cfg.tInstr0 + s.offset : Nat) : Int) ≤ s.now - s.clkI := by
  by_cases h : ((s.instrPeriod : Nat) : Int) ≤ s.now - s.clkI
  · simp only [State.instrFires, ready_of_le h, true_iff]
    exact h
  · simp only [State.instrFires, ready_of_lt (not_le.mp h), Bool.false_eq_true, false_iff]
    exact h

/-! ## The phases after the instruction -/

/-- The timer phase writes `clkT`, the timers, the gate and the outputs alone. -/
theorem State.timerPhase_eq (s : State) :
    s.timerPhase = { s with clkT := s.timerPhase.clkT, dt := s.timerPhase.dt, st := s.timerPhase.st,
                            audio := s.timerPhase.audio, outputs := s.timerPhase.outputs } := by
  unfold State.timerPhase
  split <;> rfl

theorem State.timerPhase_of_tick {s : State} (h : (s.cfg.tTimer : Int) ≤ s.now - s.clkT) :
    s.timerPhase = { s with clkT := s.clkT + (s.cfg.tTimer : Int) }.timerTick := by
  unfold State.timerPhase
  rw [ready_of_le h]

theorem State.timerPhase_of_no_tick {s : State} (h : s.now - s.clkT < (s.cfg.tTimer : Int)) :
    s.timerPhase = s := by
  unfold State.timerPhase
  rw [ready_of_lt h]

/-- The frame phase writes `drawn` and the outputs alone, and leaves `drawn` clear. -/
theorem State.framePhase_eq (s : State) :
    s.framePhase = { s with drawn := false, outputs := s.framePhase.outputs } := by
  unfold State.framePhase
  split
  · rfl
  · obtain ⟨⟩ := s
    simp_all

/-- The poll writes the key, the offset, the run state and the outputs alone. -/
theorem State.pollPhase_eq (s : State) (inp : HostInput) :
    s.pollPhase inp = { s with key := inp.pkey, offset := adjustOffset s.cfg s.offset inp.hint
                               run := if inp.quit then .terminated else s.run
                               outputs := (s.pollPhase inp).outputs } := by
  unfold State.pollPhase State.quitIf
  split <;> rfl

/-- The rest of an iteration writes `clkT`, the timers, the gate, `drawn`, the key, the offset, the run state and the
outputs alone. -/
theorem State.finish_eq (s : State) (inp : HostInput) :
    s.finish inp = { s with clkT := s.timerPhase.clkT, dt := s.timerPhase.dt, st := s.timerPhase.st
                            audio := s.timerPhase.audio, drawn := false, key := inp.pkey
                            offset := adjustOffset s.cfg s.offset inp.hint
                            run := if inp.quit then .terminated else s.run
                            outputs := (s.finish inp).outputs } := by
  unfold State.finish
  rw [State.pollPhase_eq, State.framePhase_eq, State.timerPhase_eq]

/-! ## Offset (R234) -/

/-- The adjusted offset stays within its bound. -/
theorem adjustOffset_le {cfg : Config} {offset : Nat} (h : offset ≤ cfg.offsetMax) (hint : RateHint) :
    adjustOffset cfg offset hint ≤ cfg.offsetMax := by
  cases hint <;> simp only [adjustOffset] <;> omega

end Sys2Proof.Machine
end

