-- ==== Sys2Proof/Laws/Step.lean ====
section
/-! SUPPORT. What one step can do: the iteration of a running machine, by cases. -/

namespace Sys2Proof.Machine

/-- A step answers a next state only from a running machine whose input keeps time from running back; then either the
instruction cadence did not fire, or it fired and the instruction completed, or it fired and a fault was taken. -/
theorem step_cases {s t : State} (h : step s = .next t) :
    s.run = .running ∧ s.now ≤ s.nextInput.now ∧
      (((s.accept s.nextInput).instrFires = false ∧ t = (s.accept s.nextInput).checkInstr.finish s.nextInput) ∨
       ((s.accept s.nextInput).instrFires = true ∧
          ((∃ u, executeOne (s.accept s.nextInput).checkInstr = .next u ∧ t = u.finish s.nextInput) ∨
           (∃ f, executeOne (s.accept s.nextInput).checkInstr = .fault f ∧
              t = (s.accept s.nextInput).checkInstr.takeFault f)))) := by
  unfold step at h
  split at h
  · rename_i hr
    refine ⟨hr, ?_⟩
    unfold runIteration at h
    split at h
    · cases h
    · rename_i hn
      refine ⟨by omega, ?_⟩
      simp only [iterate] at h
      split at h
      · rename_i hf
        refine Or.inr ⟨hf, ?_⟩
        split at h
        · rename_i u hu
          cases h
          exact Or.inl ⟨u, hu, rfl⟩
        · rename_i f hu
          cases h
          exact Or.inr ⟨f, hu, rfl⟩
        · cases h
      · rename_i hf
        cases h
        exact Or.inl ⟨by simpa using hf, rfl⟩
  · cases h
  · cases h

/-- A running machine whose input keeps time from running back takes one iteration. -/
theorem step_running {s : State} (hr : s.run = .running) (hn : s.now ≤ s.nextInput.now) :
    step s = iterate s s.nextInput := by
  unfold step runIteration
  rw [hr]
  simp [not_lt.mpr hn]

/-- One instruction answers a next state only when its word was fetched and its meaning answered that state. -/
theorem executeOne_next {s t : State} (h : executeOne s = .next t) :
    s.pc.toNat ≤ 0xFFE ∧
      exec (decodeWord s.cfg.family0
        (wordOfBytes (s.readByte s.pc.toNat) (s.readByte (s.pc.toNat + 1)))) s = .next t := by
  unfold executeOne at h
  split at h
  · cases h
  · rename_i w hw
    obtain ⟨hp, rfl⟩ := State.fetch_ok hw
    exact ⟨hp, h⟩

end Sys2Proof.Machine
end

