-- ==== Sys2Proof/Tests/Slice0.lean ====
section
/-! SUPPORT. The model's own tests: ill-formed terms refused, words written out from the opcode table decoded, vectors of
spec/95_test_vectors.md, and for each statement with hypotheses a state and operands that meet them. -/

namespace Sys2Proof.Tests

open Sys2Proof.Machine

/-! ## Helpers -/

/-- The word placed at `PC`. -/
def withWord (s : State) (w : Word) : State := s.writeBytes s.pc.toNat (bytesOfWord w)

/-- One fetched instruction. -/
def one (s : State) (w : Word) : Result := executeOne (withWord s w)

def gives (r : Result) (p : State → Bool) : Bool :=
  match r with
  | .next t => p t
  | .fault _ => false
  | .refused _ => false

def faults (r : Result) (f : Fault) : Bool :=
  match r with
  | .next _ => false
  | .fault g => decide (g = f)
  | .refused _ => false

def refuses (r : Result) (q : Refusal) : Bool :=
  match r with
  | .next _ => false
  | .fault _ => false
  | .refused p => decide (p = q)

theorem exists_of_gives {r : Result} {p : State → Bool} (h : gives r p = true) : ∃ t, r = .next t ∧ p t = true := by
  cases r with
  | next t => exact ⟨t, rfl, h⟩
  | fault f => cases h
  | refused q => cases h

theorem eq_of_faults {r : Result} {f : Fault} (h : faults r f = true) : r = .fault f := by
  cases r with
  | next t => cases h
  | fault g => rw [of_decide_eq_true h]
  | refused q => cases h

theorem eq_of_refuses {r : Result} {q : Refusal} (h : refuses r q = true) : r = .refused q := by
  cases r with
  | next t => cases h
  | fault g => cases h
  | refused p => rw [of_decide_eq_true h]

/-- An input with no key, hint, quit or random byte. -/
def inputAt (now : Int) : HostInput where
  now := now
  pkey := none
  hint := .none
  quit := false
  rnd := none

/-- The state with these inputs to come. -/
def fed (s : State) (inputs : List HostInput) : State := { s with host := inputs }

/-- The start of the scheduler vectors: `T_INSTR0 = 2`, `T_TIMER = 20`, `OFFSET_STEP = 1`, `OFFSET_MAX = 3`, `t0 = 0`. -/
def start : State := State.resetWith { Config.default with tInstr0 := 2, tTimer := 20 } 0

/-! ## Ill-formed terms are refused (R83, R84, R86) -/

theorem test_unrec0_full_word : Instr.wellFormed .fullWord (.unrec0 0x0E0) = false ∧
    Instr.wellFormed .fullWord (.unrec0 0x0EE) = false ∧ Instr.wellFormed .fullWord (.unrec0 0x1EE) = true := by decide
theorem test_unrec0_low_byte : Instr.wellFormed .lowByte (.unrec0 0x1E0) = false ∧
    Instr.wellFormed .lowByte (.unrec0 0x1EE) = false ∧ Instr.wellFormed .lowByte (.unrec0 0x1E1) = true := by decide
theorem test_unrec0_low_nibble : Instr.wellFormed .lowNibble (.unrec0 0x120) = false ∧
    Instr.wellFormed .lowNibble (.unrec0 0x12E) = false ∧ Instr.wellFormed .lowNibble (.unrec0 0x123) = true := by decide
theorem test_unrecE_ill_formed : ∀ m, Instr.wellFormed m (.unrecE 2 0x9E) = false ∧
    Instr.wellFormed m (.unrecE 2 0xA1) = false ∧ Instr.wellFormed m (.unrecE 2 0xA2) = true := by
  intro m; cases m <;> decide
theorem test_unrecF_ill_formed :
    ∀ nn ∈ [0x07#8, 0x0A#8, 0x15#8, 0x18#8, 0x1E#8, 0x29#8, 0x33#8, 0x55#8, 0x65#8],
      Instr.wellFormed .fullWord (.unrecF 0 nn) = false := by decide

/-! ## Words written out from the rows of spec/opcode_table.json -/

theorem test_decode_family_0 : decodeWord .fullWord 0x00E0 = .cls ∧ decodeWord .fullWord 0x00EE = .ret ∧
    decodeWord .fullWord 0x01EE = .unrec0 0x1EE ∧ decodeWord .lowByte 0x01EE = .ret ∧
    decodeWord .lowByte 0x01E0 = .cls ∧ decodeWord .lowNibble 0x0000 = .cls ∧ decodeWord .lowNibble 0x012E = .ret := by
  decide
theorem test_decode_nnn : decodeWord .fullWord 0b0001_1010_1011_1100 = .jp 0xABC ∧
    decodeWord .fullWord 0b0010_0100_0000_0001 = .call 0x401 ∧
    decodeWord .fullWord 0b1010_0001_0010_0011 = .ldI 0x123 ∧
    decodeWord .fullWord 0b1011_1111_1110_1101 = .jpV0 0xFED := by decide
theorem test_decode_xnn : decodeWord .fullWord 0b0011_1010_0100_0010 = .seImm 10 0x42 ∧
    decodeWord .fullWord 0b0100_1010_0100_0010 = .sneImm 10 0x42 ∧
    decodeWord .fullWord 0b0110_1111_0101_1100 = .ldImm 15 0x5C ∧
    decodeWord .fullWord 0b0111_0000_1111_1110 = .addImm 0 0xFE ∧
    decodeWord .fullWord 0b1100_0011_0000_1111 = .rnd 3 0x0F := by decide
theorem test_decode_xy : decodeWord .fullWord 0b0101_0001_0010_0000 = .seReg 1 2 ∧
    decodeWord .fullWord 0b0101_0001_0010_0111 = .seReg 1 2 ∧
    decodeWord .fullWord 0b1001_0001_0010_0000 = .sneReg 1 2 ∧
    decodeWord .fullWord 0b1001_0001_0010_1111 = .sneReg 1 2 ∧
    decodeWord .fullWord 0b1101_0011_1110_0101 = .drw 3 14 5 := by decide
theorem test_decode_family_8 : decodeWord .fullWord 0x8120 = .ldReg 1 2 ∧ decodeWord .fullWord 0x8121 = .orReg 1 2 ∧
    decodeWord .fullWord 0x8122 = .andReg 1 2 ∧ decodeWord .fullWord 0x8123 = .xorReg 1 2 ∧
    decodeWord .fullWord 0x8124 = .addReg 1 2 ∧ decodeWord .fullWord 0x8125 = .subReg 1 2 ∧
    decodeWord .fullWord 0x8126 = .shr 1 2 ∧ decodeWord .fullWord 0x812E = .shl 1 2 := by decide
theorem test_decode_family_8_unrecognized :
    decodeWord .fullWord 0x8127 = .unrec8xy7 1 2 ∧ decodeWord .fullWord 0x8128 = .unrec8xy8 1 2 ∧
    decodeWord .fullWord 0x8129 = .unrec8xy9 1 2 ∧ decodeWord .fullWord 0x812A = .unrec8xyA 1 2 ∧
    decodeWord .fullWord 0x812B = .unrec8xyB 1 2 ∧ decodeWord .fullWord 0x812C = .unrec8xyC 1 2 ∧
    decodeWord .fullWord 0x812D = .unrec8xyD 1 2 ∧ decodeWord .fullWord 0x812F = .unrec8xyF 1 2 := by decide
theorem test_decode_family_E : decodeWord .fullWord 0xE29E = .skp 2 ∧ decodeWord .fullWord 0xE2A1 = .sknp 2 ∧
    decodeWord .fullWord 0xE2A2 = .unrecE 2 0xA2 := by decide
theorem test_decode_family_F : decodeWord .fullWord 0xF307 = .ldVxDt 3 ∧ decodeWord .fullWord 0xF30A = .ldVxK 3 ∧
    decodeWord .fullWord 0xF315 = .ldDtVx 3 ∧ decodeWord .fullWord 0xF318 = .ldStVx 3 ∧
    decodeWord .fullWord 0xF31E = .addIVx 3 ∧ decodeWord .fullWord 0xF329 = .ldFVx 3 ∧
    decodeWord .fullWord 0xF333 = .ldBVx 3 ∧ decodeWord .fullWord 0xF355 = .ldMemVx 3 ∧
    decodeWord .fullWord 0xF365 = .ldVxMem 3 ∧ decodeWord .fullWord 0xF3FF = .unrecF 3 0xFF := by decide
theorem test_decode_bytes_rejects_short_lists :
    (match decodeBytes .fullWord [] with | .error .noBytes => true | _ => false) = true ∧
    (match decodeBytes .fullWord [0x00] with | .error .secondByteMissing => true | _ => false) = true := by decide
theorem test_decode_table_word : decodeTableWord 16 0xD015 = some (.drw 0 1 5) ∧
    decodeTableWord 16 0x0000 = some (.unrec0 0x000) := by decide

/-! ## Vectors of spec/95_test_vectors.md §2 -/

/-- V0.1 -/
theorem test_cls : gives (one (State.reset.draw (State.reset.fb.toggle 63 31)) 0x00E0)
    (fun t => t.pc == 0x202 && !t.fb.pixel 63 31 && t.drawn) = true := by decide
/-- V0.3 -/
theorem test_ret : gives (one { State.reset with sp := 1, stack := State.reset.stack.set 0 0x204, pc := 0x300 } 0x00EE)
    (fun t => t.pc == 0x206 && t.sp == 0) = true := by decide
/-- V0.4 -/
theorem test_ret_empty : faults (one (State.reset.setPc 0x300) 0x00EE) (.stackUnderflow 0x300) = true := by decide
/-- V0.5 -/
theorem test_unrec0 : gives (one State.reset 0x0123)
    (fun t => t.pc == 0x202 && decide (t.outputs = [.unrecognized .u0 0x200 0x0123])) = true := by decide
/-- V1.3 -/
theorem test_jp : gives (one State.reset 0x1201) (fun t => t.pc == 0x201) = true := by decide
/-- V2.1 -/
theorem test_call : gives (one (State.reset.setPc 0x20A) 0x2400)
    (fun t => t.pc == 0x400 && t.sp == 1 && t.stackEntry 0 == 0x20A) = true := by decide
/-- V2.3 -/
theorem test_call_full : faults (one { State.reset with sp := 16 } 0x2400) (.stackOverflow 0x200) = true := by decide
/-- V3.1 -/
theorem test_se_imm : gives (one (State.reset.setReg 10 0x42) 0x3A42) (fun t => t.pc == 0x204) = true := by decide
/-- V4.1 -/
theorem test_sne_imm : gives (one (State.reset.setReg 10 0x42) 0x4A42) (fun t => t.pc == 0x202) = true := by decide
/-- V5.3 -/
theorem test_se_reg : gives (one ((State.reset.setReg 1 7).setReg 2 7) 0x5127) (fun t => t.pc == 0x204) = true := by
  decide
/-- V9.3 -/
theorem test_sne_reg : gives (one ((State.reset.setReg 1 1).setReg 2 2) 0x912F) (fun t => t.pc == 0x204) = true := by
  decide
/-- V6.2 -/
theorem test_ld_imm : gives (one State.reset 0x6FFF) (fun t => t.reg 15 == 0xFF && t.pc == 0x202) = true := by decide
/-- V7.2 -/
theorem test_add_imm : gives (one ((State.reset.setReg 10 0x05).setReg 15 0x77) 0x7AFF)
    (fun t => t.reg 10 == 0x04 && t.reg 15 == 0x77) = true := by decide
/-- V8.1 -/
theorem test_ld_reg : gives (one ((State.reset.setReg 1 0x11).setReg 2 0x22) 0x8120)
    (fun t => t.reg 1 == 0x22 && t.reg 2 == 0x22) = true := by decide
/-- V8.2 -/
theorem test_or : gives (one (((State.reset.setReg 1 0xF0).setReg 2 0x0F).setReg 15 0x55) 0x8121)
    (fun t => t.reg 1 == 0xFF && t.reg 15 == 0x55) = true := by decide
/-- V8.3 -/
theorem test_and : gives (one ((State.reset.setReg 1 0xF3).setReg 2 0x3F) 0x8122) (fun t => t.reg 1 == 0x33) = true := by
  decide
/-- V8.4 -/
theorem test_xor : gives (one ((State.reset.setReg 1 0xFF).setReg 2 0x0F) 0x8123) (fun t => t.reg 1 == 0xF0) = true := by
  decide
/-- V8.6 -/
theorem test_add_carry : gives (one ((State.reset.setReg 1 0xFF).setReg 2 0x01) 0x8124)
    (fun t => t.reg 1 == 0x00 && t.reg 15 == 0x01) = true := by decide
/-- V8.8 -/
theorem test_add_flag_wins : gives (one ((State.reset.setReg 15 0xFF).setReg 1 0x02) 0x8F14)
    (fun t => t.reg 15 == 0x01) = true := by decide
/-- V8.11 -/
theorem test_sub_equal : gives (one ((State.reset.setReg 1 0x05).setReg 2 0x05) 0x8125)
    (fun t => t.reg 1 == 0x00 && t.reg 15 == 0x01) = true := by decide
/-- V8.12 -/
theorem test_sub_borrow : gives (one ((State.reset.setReg 1 0x00).setReg 2 0x01) 0x8125)
    (fun t => t.reg 1 == 0xFF && t.reg 15 == 0x00) = true := by decide
/-- V8.15 -/
theorem test_shr : gives (one ((State.reset.setReg 1 0xAA).setReg 2 0x03) 0x8126)
    (fun t => t.reg 1 == 0x01 && t.reg 2 == 0x01 && t.reg 15 == 0x01) = true := by decide
/-- V8.17 -/
theorem test_shr_same : gives (one (State.reset.setReg 1 0x03) 0x8116)
    (fun t => t.reg 1 == 0x01 && t.reg 15 == 0x01) = true := by decide
/-- V8.18 -/
theorem test_shl : gives (one (State.reset.setReg 2 0x81) 0x812E)
    (fun t => t.reg 1 == 0x02 && t.reg 2 == 0x01 && t.reg 15 == 0x01) = true := by decide
/-- V8.20 -/
theorem test_shl_flag : gives (one (State.reset.setReg 2 0x81) 0x8F2E)
    (fun t => t.reg 2 == 0x01 && t.reg 15 == 0x01) = true := by decide
/-- V8.21 -/
theorem test_unrec8xy7 : gives (one ((State.reset.setReg 1 5).setReg 2 3) 0x8127)
    (fun t => t.pc == 0x202 && t.reg 1 == 5 && decide (t.outputs = [.unrecognized .u8 0x200 0x8127])) = true := by decide
/-- VA.2 -/
theorem test_ld_i : gives (one State.reset 0xAFFF) (fun t => t.i == 0xFFF && t.pc == 0x202) = true := by decide
/-- VB.2 -/
theorem test_jp_v0 : gives (one (State.reset.setReg 0 0xFF) 0xBFFF) (fun t => t.pc == 0x10FE) = true := by decide
/-- VC.3: a value an AND with the mask cannot give. -/
theorem test_rnd : gives (one { State.reset with rnd := some 0x05 } 0xC30A) (fun t => t.reg 3 == 0x05) = true := by decide
/-- VD.2 -/
theorem test_drw_collision :
    gives (one ({ ((State.reset.writeByte 0x300 0xFF).setI 0x300) with
        fb := (blitPixels (rowPixels 5 3 0xFF) State.reset.fb false).1 }.setReg 0 5 |>.setReg 1 3) 0xD011)
      (fun t => t.reg 15 == 1 && !t.fb.pixel 5 3 && !t.fb.pixel 12 3 && t.drawn) = true := by decide
/-- VD.9 -/
theorem test_drw_reads_first : gives (one (((State.reset.writeByte 0x300 0x80).setI 0x300).setReg 15 2) 0xDFF1)
    (fun t => t.reg 15 == 0 && t.fb.pixel 2 2 && !t.fb.pixel 3 2) = true := by decide
/-- VE.1, VE.3 -/
theorem test_skp : gives (one ({ State.reset with key := some 5 }.setReg 2 5) 0xE29E) (fun t => t.pc == 0x204) = true ∧
    gives (one ({ State.reset with key := some 0 }.setReg 2 0x10) 0xE29E) (fun t => t.pc == 0x202) = true := by decide
/-- VE.4, VE.5 -/
theorem test_sknp : gives (one State.reset 0xE2A1) (fun t => t.pc == 0x204) = true ∧
    gives (one ({ State.reset with key := some 5 }.setReg 2 5) 0xE2A1) (fun t => t.pc == 0x202) = true := by decide
/-- VE.6 -/
theorem test_unrecE : gives (one State.reset 0xE2A2)
    (fun t => t.pc == 0x200 && decide (t.outputs = [.unrecognized .uE 0x200 0xE2A2])) = true := by decide
/-- VF.1 -/
theorem test_ld_vx_dt : gives (one (State.reset.setDt 0x3C) 0xF307) (fun t => t.reg 3 == 0x3C && t.pc == 0x202) = true := by
  decide
/-- VF.2, VF.3 -/
theorem test_ld_vx_k : gives (one State.reset 0xF10A) (fun t => t.pc == 0x200) = true ∧
    gives (one { State.reset with key := some 10 } 0xF10A) (fun t => t.reg 1 == 10 && t.pc == 0x202) = true := by decide
/-- VF.4 -/
theorem test_ld_dt_vx : gives (one (State.reset.setReg 0 3) 0xF015) (fun t => t.dt == 3 && t.pc == 0x202) = true := by
  decide
/-- VF.5 -/
theorem test_ld_st_vx : gives (one (State.reset.setReg 4 1) 0xF418) (fun t => t.st == 1 && !t.audio) = true := by decide
/-- VF.7 -/
theorem test_add_i_vx : gives (one ((State.reset.setI 0xFFFF).setReg 0 2) 0xF01E) (fun t => t.i == 1) = true := by decide
/-- VF.9 -/
theorem test_ld_f_vx : gives (one (State.reset.setReg 5 0x10) 0xF529) (fun t => t.i == 0x0A0) = true := by decide
/-- VF.10 -/
theorem test_ld_b_vx : gives (one ((State.reset.setI 0x300).setReg 3 0xEA) 0xF333)
    (fun t => t.readByte 0x300 == 2 && t.readByte 0x301 == 3 && t.readByte 0x302 == 4) = true := by decide
/-- VF.14 -/
theorem test_ld_mem_vx : gives (one ((State.reset.setI 0xFF0).setReg 15 0xAB) 0xFF55)
    (fun t => t.readByte 0xFFF == 0xAB && t.i == 0xFF0) = true := by decide
/-- VF.15 -/
theorem test_ld_mem_vx_beyond : faults (one (State.reset.setI 0xFF1) 0xFF55) (.memOutOfRange 0x1000) = true := by decide
/-- VF.16 -/
theorem test_ld_vx_mem : gives (one ((State.reset.writeBytes 0x300 [2, 3, 4]).setI 0x300) 0xF265)
    (fun t => t.reg 0 == 2 && t.reg 1 == 3 && t.reg 2 == 4 && t.reg 3 == 0 && t.i == 0x300) = true := by decide
/-- VF.18 -/
theorem test_unrecF : gives (one State.reset 0xF0FF)
    (fun t => t.pc == 0x200 && decide (t.outputs = [.unrecognized .uF 0x200 0xF0FF])) = true := by decide

/-! ## Vectors of §3 -/

/-- O3, O4, O5 -/
theorem test_adjust : adjustOffset start.cfg 3 .slower = 3 ∧ adjustOffset start.cfg 2 .faster = 1 ∧
    adjustOffset start.cfg 0 .faster = 0 := by decide
/-- T3, T4 -/
theorem test_timer_tick : ({ start with st := 1 }.timerTick.st = 0 ∧ { start with st := 1 }.timerTick.audio = true) ∧
    { start with st := 0, audio := true }.timerTick.audio = false := by decide
/-- S6 -/
theorem test_instruction_before_tick : gives (step (fed (withWord (start.setDt 5) 0xF007) [inputAt 20]))
    (fun t => t.reg 0 == 5 && t.dt == 4 && t.clkI == 2 && t.clkT == 20) = true := by decide
/-- S8 -/
theorem test_no_fire : gives (step (fed (withWord start 0x6005) [{ inputAt 1 with pkey := some 4, hint := .slower }]))
    (fun t => t.key == some 4 && t.offset == 1 && t.pc == 0x200) = true := by decide
/-- S11 -/
theorem test_quit : gives (step (fed (withWord start 0x6005) [{ inputAt 2 with quit := true }]))
    (fun t => t.reg 0 == 5 && decide (t.run = .terminated) && t.pc == 0x202) = true := by decide
/-- S12 -/
theorem test_fault_ends_iteration :
    gives (step (fed (withWord { start with st := 3 } 0x00EE) [{ inputAt 20 with pkey := some 4 }]))
      (fun t => decide (t.run = .faulted (.stackUnderflow 0x200)) && t.st == 3 && t.clkT == 0 && t.key == none &&
        t.clkI == 2) = true := by decide
/-- The first instruction after reset is the placed one. -/
theorem test_with_fetch_word : gives (step (State.reset.withFetchWord 16 0x6A5C))
    (fun t => t.reg 10 == 0x5C && t.pc == 0x202) = true := by decide

/-! ## Witnesses: for each statement with hypotheses, a state and operands that meet them -/

/-- A step of `00E0` at reset; of `00EE`, which faults; of `120C`. -/
def clsStep : State := fed (withWord State.reset 0x00E0) [{ inputAt 1 with pkey := some 7, hint := .slower }]
def retStep : State := fed (withWord State.reset 0x00EE) [inputAt 1]
def quitStep : State := fed (withWord State.reset 0x6005) [{ inputAt 1 with quit := true }]

/-- DecodeOfEncodeIsTheInstruction: well-formed terms under each reading. -/
theorem witness_well_formed : Instr.wellFormed .fullWord (.unrec0 0xFFF) = true ∧
    Instr.wellFormed .lowByte (.unrec0 0x0E1) = true ∧ Instr.wellFormed .lowNibble (.unrec0 0x0EF) = true ∧
    Instr.wellFormed .fullWord (.drw 15 15 15) = true ∧ Instr.wellFormed .fullWord (.unrecF 15 0x66) = true := by decide
/-- EveryWordDecodesToOneWellFormedForm: words outside families 5 and 9 that meet each of the four alternatives. -/
theorem witness_lossless_words : (fieldF 0x8127 ≠ 0x5#4 ∧ fieldF 0x8127 ≠ 0x9#4 ∧
      decodeWord .lowByte 0x8127 ≠ .cls ∧ decodeWord .lowByte 0x8127 ≠ .ret) ∧
    (fieldF 0x01E1 = 0x0#4 ∧ decodeWord .lowByte 0x01E1 ≠ .cls ∧ decodeWord .lowByte 0x01E1 ≠ .ret) ∧
    (fieldF 0x012D = 0x0#4 ∧ decodeWord .lowNibble 0x012D ≠ .cls ∧ decodeWord .lowNibble 0x012D ≠ .ret) ∧
    (decodeWord .lowNibble 0x00E0 = .cls ∧ decodeWord .lowByte 0x00EE = .ret) := by decide
/-- FamilyZeroReadings: family-0 words with the low nibble neither 0 nor E, next to each of the two. -/
theorem witness_family_zero : (fieldF 0x0001 = 0x0#4 ∧ fieldN 0x0001 ≠ 0x0#4 ∧ fieldN 0x0001 ≠ 0xE#4) ∧
    (fieldF 0x00EF = 0x0#4 ∧ fieldN 0x00EF ≠ 0x0#4 ∧ fieldN 0x00EF ≠ 0xE#4) := by decide
/-- BootResetGivesTheResetValues and ResetIsTheEmptyImageAndLongImagesAreRefused: the longest image and one byte more. -/
theorem witness_image_lengths : (List.replicate 3584 (0xAA : Byte)).length ≤ 3584 ∧
    3584 < (List.replicate 3585 (0xAA : Byte)).length :=
  ⟨List.length_replicate.le, by rw [List.length_replicate]; omega⟩
/-- BootResetGivesTheResetValues: addresses of each clause at the ends of their ranges, for a one-byte image. -/
theorem witness_boot_addresses : (0 < [(0xAA : Byte)].length) ∧ (79 < 80) ∧ (0x04F < 0x050) ∧
    (0x0A0 ≤ 0x0A0 ∧ 0x0A0 < 0x200) ∧ (0x1FF < 0x200) ∧ (0x200 + [(0xAA : Byte)].length ≤ 0x201) := by decide
/-- StepRunsTheDecodedInstruction: the cadence at its first firing tick, and PC at its highest. -/
theorem witness_step_runs : ∃ s : State, s.run = .running ∧ s.now ≤ s.nextInput.now ∧
    s.clkI + ((s.cfg.tInstr0 + s.offset : Nat) : Int) ≤ s.nextInput.now ∧ s.pc.toNat ≤ 0xFFE ∧
    decodeWord s.cfg.family0 (s.readByte s.pc.toNat ++ s.readByte (s.pc.toNat + 1)) = .call 0x400 :=
  ⟨fed (withWord (State.reset.setPc 0xFFE) 0x2400) [inputAt 1], by decide⟩
/-- FetchBeyondMemoryFaults: the lowest PC above 0xFFE. -/
theorem witness_fetch_beyond : ∃ s : State, s.run = .running ∧ s.now ≤ s.nextInput.now ∧
    s.clkI + ((s.cfg.tInstr0 + s.offset : Nat) : Int) ≤ s.nextInput.now ∧ 0xFFE < s.pc.toNat :=
  ⟨fed (State.reset.setPc 0xFFF) [inputAt 1], by decide⟩
/-- FetchIsBigEndian: the highest PC, and an odd one. -/
theorem witness_fetch : (State.reset.setPc 0xFFE).pc.toNat ≤ 0xFFE ∧ (State.reset.setPc 0x201).pc.toNat ≤ 0xFFE := by
  decide
/-- NoInstructionUntilTheCadenceFires: the last tick before the firing one. -/
theorem witness_no_instruction : ∃ s : State, s.run = .running ∧ s.now ≤ s.nextInput.now ∧
    s.nextInput.now < s.clkI + ((s.cfg.tInstr0 + s.offset : Nat) : Int) :=
  ⟨fed start [inputAt 1], by decide⟩
/-- StoppedRunsAndBackwardTimeHaveNoStep: a faulted, a terminated and a running state with an earlier input. -/
theorem witness_stopped : (State.reset.takeFault (.stackUnderflow 0x200)).run = .faulted (.stackUnderflow 0x200) ∧
    (State.reset.quitIf true).run = .terminated ∧
    (fed State.reset [inputAt (-1)]).run = .running ∧
    (fed State.reset [inputAt (-1)]).nextInput.now < (fed State.reset [inputAt (-1)]).now := by decide
/-- CadenceBacklogIsNeverDiscarded and CadenceCheckFiresOncePerPeriod: checks each with exactly one period of backlog. -/
theorem witness_backlog : ∀ j (h : j < [(2 : Int), 4].length), ((2 : Nat) : Int) ≤ [(2 : Int), 4][j] - (0 + ((j * 2 : Nat) : Int)) := by
  decide
theorem witness_cadence : (2 : Int) - 0 ≥ ((2 : Nat) : Int) ∧ (1 : Int) - 0 < ((2 : Nat) : Int) := by decide
/-- AudioGateMovesOnlyAtTimerTicks: a completed step one tick before the timer fires. -/
theorem witness_no_timer_tick : ∃ s t : State, step s = .next t ∧
    s.nextInput.now < s.clkT + (s.cfg.tTimer : Int) := by
  obtain ⟨t, h, -⟩ := exists_of_gives (p := fun _ => true)
    (by decide : gives (step (fed (withWord State.reset 0x6005) [inputAt 9])) (fun _ => true) = true)
  exact ⟨_, t, h, by decide⟩
/-- QuitTerminatesAtTheEndOfTheIteration: a step that ends terminated, which is not faulted. -/
theorem witness_quit : ∃ t : State, step quitStep = .next t ∧ t.run = .terminated ∧ ∀ f, t.run ≠ .faulted f := by
  obtain ⟨t, h, hp⟩ := exists_of_gives (p := fun t => decide (t.run = .terminated))
    (by decide : gives (step quitStep) (fun t => decide (t.run = .terminated)) = true)
  have ht := of_decide_eq_true hp
  exact ⟨t, h, ht, fun f => by rw [ht]; exact RunState.noConfusion⟩
/-- PollSetsKeyAndOffsetAfterTheInstruction, FrameIsHandedOverOncePerIteration: a running step that draws and polls. -/
theorem witness_poll_and_frame : ∃ t : State, step clsStep = .next t ∧ (∀ f, t.run ≠ .faulted f) ∧
    ∃ bytes w h, Output.frame bytes w h ∈ t.outputs := by
  obtain ⟨t, h, hp⟩ := exists_of_gives (p := fun t => decide (t.run = .running) && t.outputs.any isFrame)
    (by decide : gives (step clsStep) (fun t => decide (t.run = .running) && t.outputs.any isFrame) = true)
  obtain ⟨hr, ho⟩ := Bool.and_eq_true_iff.mp hp
  have hr := of_decide_eq_true hr
  obtain ⟨o, hm, hf⟩ := List.any_eq_true.mp ho
  refine ⟨t, h, fun f => by rw [hr]; exact RunState.noConfusion, ?_⟩
  cases o with
  | frame bytes w h => exact ⟨bytes, w, h, hm⟩
  | unrecognized _ _ _ => cases hf
  | audioGate _ => cases hf
  | terminated => cases hf
/-- FrameIsHandedOverOncePerIteration: a drawn state whose step fires no instruction, and a step that draws nothing. -/
theorem witness_frame_drawn_before : gives (step (fed { start with drawn := true } [inputAt 1]))
    (fun t => decide (t.run = .running) && t.outputs.any isFrame) = true := by decide
theorem witness_no_frame : gives (step (fed (withWord State.reset 0x6005) [inputAt 1]))
    (fun t => decide (t.run = .running) && !t.outputs.any isFrame) = true := by decide
/-- FrameIsHandedOverOncePerIteration: the last pixel. -/
theorem witness_last_pixel : (63 < 64) ∧ (31 < 32) := by decide
/-- FaultsArePrecise: a step that ends faulted. -/
theorem witness_faulted : ∃ t : State, step retStep = .next t ∧ t.run = .faulted (.stackUnderflow 0x200) := by
  obtain ⟨t, h, hp⟩ := exists_of_gives (p := fun t => decide (t.run = .faulted (.stackUnderflow 0x200)))
    (by decide : gives (step retStep) (fun t => decide (t.run = .faulted (.stackUnderflow 0x200))) = true)
  exact ⟨t, h, of_decide_eq_true hp⟩
/-- BootMeetsTheInvariant: a legal configuration and an image that boots. -/
theorem witness_boot : Config.default.valid ∧ ∃ s, bootReset [0x12, 0x00] Config.default 5 = .next s :=
  ⟨by decide, _, rfl⟩
/-- EveryStepKeepsTheInvariant: a state that satisfies the invariant and steps. -/
theorem witness_invariant : clsStep.Inv ∧ ∃ t, step clsStep = .next t :=
  ⟨⟨by decide, by decide, by decide, by decide, by decide, by decide, by decide⟩, _, rfl⟩
/-- InstructionsLeaveTheRunLoopStateAlone, RegistersChangeOnlyAsDestinations: an instruction that completes, and a
register it may not write. -/
theorem witness_completes : (∃ t, exec (.shr 1 2) State.reset = .next t) ∧ mayWriteReg (.shr 1 2) 3 = false ∧
    (∃ t, exec (.ldVxMem 14) State.reset = .next t) ∧ mayWriteReg (.ldVxMem 14) 15 = false :=
  ⟨⟨_, rfl⟩, by decide, ⟨_, rfl⟩, by decide⟩
/-- OtherStateChangesOnlyByItsInstructions: one completed instruction that meets the premise of every clause. -/
theorem witness_other_state : (∃ t, exec (.ldImm 1 2) State.reset = .next t) ∧ mayWriteI (.ldImm 1 2) = false ∧
    mayUseStack (.ldImm 1 2) = false ∧ (∀ x, Instr.ldImm 1 2 ≠ .ldDtVx x) ∧ (∀ x, Instr.ldImm 1 2 ≠ .ldStVx x) ∧
    mayDraw (.ldImm 1 2) = false ∧ mayStore (.ldImm 1 2) = false ∧ unrecognizedForm (.ldImm 1 2) = false ∧
    (∀ x nn, Instr.ldImm 1 2 ≠ .rnd x nn) :=
  ⟨⟨_, rfl⟩, by decide, by decide, by decide, by decide, by decide, by decide, by decide, fun _ _ => Instr.noConfusion⟩
/-- ProgramCannotObserveTime: two different states that agree on what a program sees. -/
theorem witness_same_view : State.reset.SameView { start with now := 7, offset := 2, drawn := true } ∧
    State.reset ≠ { start with now := 7, offset := 2, drawn := true } :=
  ⟨⟨rfl, rfl, rfl, rfl, rfl, rfl, rfl, rfl, rfl, rfl, rfl, rfl, rfl, rfl⟩, fun h => by
    have := congrArg State.drawn h
    exact Bool.noConfusion this⟩
/-- OnlyListedInstructionsFault: each kind of fault, at the edge of its range. -/
theorem witness_faults : exec (.call 0) { State.reset with sp := 16 } = .fault (.stackOverflow 0x200) ∧
    exec .ret State.reset = .fault (.stackUnderflow 0x200) ∧
    exec (.ldBVx 0) (State.reset.setI 0xFFE) = .fault (.memOutOfRange 0x1000) ∧
    exec (.drw 0 1 1) (((State.reset.setI 0x050).setReg 0 61)) = .fault (.drawOutOfRange 64 0) :=
  ⟨eq_of_faults (by decide), eq_of_faults (by decide), eq_of_faults (by decide), eq_of_faults (by decide)⟩
/-- OnlyABrokenRandomDutyIsRefused, and the refused clause of RandomIsTheHostsByteWithinTheMask. -/
theorem witness_refused : exec (.rnd 3 0x0F) { State.reset with rnd := some 0x10 } = .refused .hostRandomAboveMask :=
  eq_of_refuses (by decide)
/-- RandomIsTheHostsByteWithinTheMask: a prescribed byte at the mask, none, and one above the mask. -/
theorem witness_random : ({ State.reset with rnd := some 0x0F }.rnd = some 0x0F ∧ (0x0F : Byte) ≤ 0x0F) ∧
    State.reset.rnd = none ∧ ({ State.reset with rnd := some 0x10 }.rnd = some 0x10 ∧ (0x0F : Byte) < 0x10) := by decide
/-- StoresAreSeenByTheNextFetch: a store up to the top of memory by each of the two instructions, and a fetch whose word
takes only its second byte from the store, one that takes both, and one that takes neither. -/
theorem witness_store_then_fetch : ∃ s t u v w : State, exec (.ldMemVx 1) s = .next t ∧
    (u.mem = t.mem ∧ u.cfg = t.cfg ∧ u.pc.toNat ≤ 0xFFE ∧ u.pc.toNat + 1 = s.i.toNat + (0 : Reg).val ∧
      u.pc.toNat < s.i.toNat) ∧
    (v.mem = t.mem ∧ v.cfg = t.cfg ∧ v.pc.toNat ≤ 0xFFE ∧ v.pc.toNat = s.i.toNat + (0 : Reg).val ∧
      v.pc.toNat + 1 = s.i.toNat + (1 : Reg).val) ∧
    (w.mem = t.mem ∧ w.cfg = t.cfg ∧ w.pc.toNat ≤ 0xFFE ∧ w.pc.toNat + 1 < s.i.toNat) := by
  obtain ⟨t, ht, -⟩ := exists_of_gives (p := fun _ => true)
    (by decide : gives (exec (.ldMemVx 1) (State.reset.setI 0xFFE)) (fun _ => true) = true)
  exact ⟨State.reset.setI 0xFFE, t, t.setPc 0xFFD, t.setPc 0xFFE, t.setPc 0x200, ht, ⟨rfl, rfl, by simp⟩,
    ⟨rfl, rfl, by simp⟩, rfl, rfl, by simp⟩
theorem witness_digits_then_fetch : ∃ s t u v : State, exec (.ldBVx 3) s = .next t ∧
    (u.mem = t.mem ∧ u.cfg = t.cfg ∧ u.pc.toNat ≤ 0xFFE ∧ u.pc.toNat = s.i.toNat + 1 ∧
      u.pc.toNat + 1 = s.i.toNat + 2) ∧
    (v.mem = t.mem ∧ v.cfg = t.cfg ∧ v.pc.toNat ≤ 0xFFE ∧ v.pc.toNat + 1 = s.i.toNat ∧ v.pc.toNat < s.i.toNat) := by
  obtain ⟨t, ht, -⟩ := exists_of_gives (p := fun _ => true)
    (by decide : gives (exec (.ldBVx 3) (State.reset.setI 0xFFD)) (fun _ => true) = true)
  exact ⟨State.reset.setI 0xFFD, t, t.setPc 0xFFE, t.setPc 0xFFC, ht, ⟨rfl, rfl, by simp⟩, rfl, rfl, by simp⟩
/-- AddSetsCarry, SubtractSetsNotBorrow, ShiftRightMutatesVY, ShiftLeftMutatesVY: operands of every clause, and carry and
borrow at their edges. -/
theorem witness_flag_operands : ((1 : Reg) ≠ 2 ∧ (1 : Reg) ≠ 15 ∧ (3 : Reg) ≠ 1 ∧ (3 : Reg) ≠ 2 ∧ (3 : Reg) ≠ 15) ∧
    (0xFF < (0xFF : Byte).toNat + (0x01 : Byte).toNat ∧ ¬ 0xFF < (0xF0 : Byte).toNat + (0x0F : Byte).toNat) ∧
    ((5 : Byte).toNat ≥ (5 : Byte).toNat ∧ ¬ (0 : Byte).toNat ≥ (1 : Byte).toNat) := by decide
/-- CallPushesItsOwnAddress, CallThenReturnContinuesAfterTheCall: 15 entries in use, and 16. -/
theorem witness_call : ({ State.reset with sp := 15 }.sp.val < 16) ∧ ({ State.reset with sp := 16 }.sp.val = 16) := by decide
/-- ReturnGoesPastTheCallSite: one entry in use, and none. -/
theorem witness_return : (0 < { State.reset with sp := 1 }.sp.val) ∧ (State.reset.sp.val = 0) := by decide
/-- CallThenReturnContinuesAfterTheCall: a call that completes, whose own state has its stack and SP. -/
theorem witness_call_return : ∃ t u : State, exec (.call 0x400) State.reset = .next t ∧ u.stack = t.stack ∧ u.sp = t.sp :=
  ⟨_, _, rfl, rfl, rfl⟩
/-- DrawTogglesTheSpriteAndFlagsCollision: no row; and the last byte of memory on the last pixel, with and without a
collision. -/
theorem witness_draw : ∃ s : State, (s.i.toNat + (1 : Fin 16).val - 1 ≤ 0xFFF) ∧ s.spriteBit 0 1 1 63 31 = true ∧
    (∀ px py, s.spriteBit 0 1 1 px py = true → px < 64 ∧ py < 32) ∧ s.fb.pixel 63 31 = false ∧
    (s.draw (s.fb.toggle 63 31)).fb.pixel 63 31 = true := by
  refine ⟨(((State.reset.writeByte 0xFFF 0x80).setI 0xFFF).setReg 0 63).setReg 1 31, by decide, by decide, ?_, by decide, by decide⟩
  intro px py h
  have hm := State.mem_drawnPixels (p := (px, py)).mpr h
  have : (px, py) = (63, 31) := by
    have hl : State.drawnPixels ((((State.reset.writeByte 0xFFF 0x80).setI 0xFFF).setReg 0 63).setReg 1 31) 0 1 1 = [(63, 31)] := by
      decide
    rw [hl] at hm
    simpa using hm
  cases this
  decide
theorem witness_draw_no_rows : ((0 : Fin 16).val = 0) ∧ ∀ px py, State.reset.spriteBit 0 1 0 px py = true → px < 64 ∧ py < 32 := by
  refine ⟨rfl, fun px py h => ?_⟩
  have hm := State.mem_drawnPixels (p := (px, py)).mpr h
  have hl : State.drawnPixels State.reset 0 1 0 = [] := by decide
  rw [hl] at hm
  cases hm
/-- DrawFaultsInOrder: one byte past memory; and a set bit one column off the screen with its bytes inside memory. -/
theorem witness_draw_faults : (0 < (2 : Fin 16).val ∧ 0xFFF < (State.reset.setI 0xFFF).i.toNat + (2 : Fin 16).val - 1) ∧
    ∃ s : State, s.i.toNat + (1 : Fin 16).val - 1 ≤ 0xFFF ∧ s.spriteBit 0 1 1 64 0 = true ∧ 64 ≤ 64 :=
  ⟨by decide, ((State.reset.writeByte 0xFFF 0x01).setI 0xFFF).setReg 0 57, by decide, by decide, by decide⟩
/-- KeySkipsCompareTheWholeByte: the held key; no key, another key and a value above 15. -/
theorem witness_keys : (∃ k : Key, some (15 : Key) = some k ∧ k.val = (15 : Byte).toNat) ∧
    (∀ k : Key, (none : Option Key) = some k → k.val ≠ (0 : Byte).toNat) ∧
    (∀ k : Key, some (0 : Key) = some k → k.val ≠ (16 : Byte).toNat) :=
  ⟨⟨15, rfl, rfl⟩, by decide, by decide⟩
/-- KeyWaitHoldsUntilAKeyIsHeld: no key and the last key. -/
theorem witness_key_wait : State.reset.key = none ∧ { State.reset with key := some 15 }.key = some 15 := by decide
/-- StoreDecimalDigits: the highest I that fits and the next. -/
theorem witness_decimal : ((State.reset.setI 0xFFD).i.toNat ≤ 0xFFD) ∧ (0xFFD < (State.reset.setI 0xFFE).i.toNat) := by decide
/-- StoreRegisters, LoadRegisters: the highest I that fits for X = F and the next. -/
theorem witness_registers : ((State.reset.setI 0xFF0).i.toNat + (15 : Reg).val ≤ 0xFFF) ∧
    (0xFFF < (State.reset.setI 0xFF1).i.toNat + (15 : Reg).val) := by decide
/-- UnrecognizedFormsLogAndGoOn: a form that holds PC and one that advances it. -/
theorem witness_unrecognized : unrecognizedForm (.unrecE 2 0xA2) = true ∧ holdsPc (.unrecE 2 0xA2) = true ∧
    unrecognizedForm (.unrec8xy7 1 2) = true ∧ holdsPc (.unrec8xy7 1 2) = false := by decide
/-- FetchedUnrecognizedWordIsLogged: one word of each of the four families, at the highest PC. -/
def atTop (hi lo : Byte) : State := { State.reset with pc := 0xFFE, mem := [(0xFFE, hi), (0xFFF, lo)] }
theorem witness_fetched_unrecognized_pc : (atTop 0x81 0x27).pc.toNat ≤ 0xFFE := by decide
theorem witness_fetched_unrecognized : ([0x0123#16, 0x8127#16, 0xE2A2#16, 0xF0FF#16].all fun w =>
    (atTop (w.extractLsb' 8 8) (w.extractLsb' 0 8)).readByte 0xFFE == w.extractLsb' 8 8 &&
    (atTop (w.extractLsb' 8 8) (w.extractLsb' 0 8)).readByte 0xFFF == w.extractLsb' 0 8 &&
    unrecognizedForm (decodeWord .fullWord w)) = true := by decide

end Sys2Proof.Tests
end

section
/-! PROOF. The operations of `10_state.md`: what each instruction may write, the invariant of a run, and reset. -/

namespace Sys2Proof.Machine

/-! ## The instructions with more than one outcome: what a next state says -/

/-- `RET` answers a next state only with an entry in use, and then goes on past it (R28, R102). -/
theorem execRet_next {s t : State} (h : execRet s = .next t) :
    ∃ _ : s.sp.val ≠ 0,
      t = ({ s with sp := ⟨s.sp.val - 1, by omega⟩ }.setPc (s.stackEntry ⟨s.sp.val - 1, by omega⟩)).advance := by
  by_cases h0 : s.sp.val = 0
  · simp only [execRet, State.pop_eq_none.mpr h0] at h
    cases h
  · simp only [execRet, State.pop_of_pos h0] at h
    cases h
    exact ⟨h0, rfl⟩

/-- `CALL` answers a next state only with room on the stack, and then pushes its own address (R28, R104). -/
theorem execCall_next {nnn : Addr12} {s t : State} (h : execCall nnn s = .next t) :
    ∃ h16 : s.sp.val < 16,
      t = { s with stack := s.stack.set s.sp.val s.pc h16, sp := ⟨s.sp.val + 1, by omega⟩ }.setPc (addr16 nnn) := by
  by_cases h16 : s.sp.val < 16
  · simp only [execCall, State.push_of_lt h16] at h
    cases h
    exact ⟨h16, rfl⟩
  · simp only [execCall, (State.push_eq_none (s := s) s.pc).mpr (by omega)] at h
    cases h

/-- `CXNN` stores the prescribed byte, which is within the mask, or draws a free one (R144, R250). -/
theorem execRnd_next {x : Reg} {nn : Byte} {s t : State} (h : execRnd x nn s = .next t) :
    (∃ r, s.rnd = some r ∧ r ≤ nn ∧ t = (s.setReg x r).advance) ∨
      (s.rnd = none ∧ t = ({ s with draws := s.draws + 1 }.setReg x
        (BitVec.ofNat 8 (Config.hostRandom s.draws nn).val)).advance) := by
  unfold execRnd at h
  split at h
  · rename_i r hr
    split at h
    · cases h
      exact Or.inl ⟨r, hr, ‹_›, rfl⟩
    · cases h
  · cases h
    exact Or.inr ⟨‹_›, rfl⟩

/-- `DXYN` answers a next state only when both checks pass, and then draws, writes the flag and advances (R162). -/
theorem execDrw_next {x y : Reg} {n : Fin 16} {s t : State} (h : execDrw x y n s = .next t) :
    firstBeyond s.i.toNat n.val = none ∧ (s.drawnPixels x y n).find? offScreen = none ∧
      t = ((s.draw (blitPixels (s.drawnPixels x y n) s.fb false).1).setFlag
        (collisionFlag (blitPixels (s.drawnPixels x y n) s.fb false).2)).advance := by
  unfold execDrw at h
  split at h
  · cases h
  · split at h
    · cases h
    · cases h
      exact ⟨‹_›, ‹_›, rfl⟩

/-- `FX0A` holds the state as it stands without a key, and stores the key held (R184). -/
theorem execLdVxK_next {x : Reg} {s t : State} (h : execLdVxK x s = .next t) :
    (s.key = none ∧ t = s) ∨ ∃ k, s.key = some k ∧ t = (s.setReg x (keyByte k)).advance := by
  unfold execLdVxK at h
  split at h
  · cases h
    exact Or.inl ⟨‹_›, rfl⟩
  · cases h
    exact Or.inr ⟨_, ‹_›, rfl⟩

/-- `FX65` answers a next state only inside memory, and then loads `V0..VX` from `I` and advances (R191). -/
theorem execLdVxMem_next {x : Reg} {s t : State} (h : execLdVxMem x s = .next t) :
    s.i.toNat + x.val ≤ 0xFFF ∧ t = (s.loadRegs x s.i.toNat).advance := by
  unfold execLdVxMem at h
  split at h
  · cases h
  · rename_i hb
    rw [firstBeyond_eq_none] at hb
    cases h
    exact ⟨by omega, rfl⟩

/-! ## What an instruction may write -/

theorem mayUseStack_iff {i : Instr} : mayUseStack i = true ↔ i = .ret ∨ ∃ nnn, i = .call nnn := by
  cases i <;> simp [mayUseStack]

theorem mayStore_iff {i : Instr} : mayStore i = true ↔ (∃ x, i = .ldBVx x) ∨ ∃ x, i = .ldMemVx x := by
  cases i <;> simp [mayStore]

/-- Between `s` and `t` each of the elements of R22–R31, the outputs and the counter of free values differs only if
`i` may write it. -/
structure WritesOnly (i : Instr) (s t : State) : Prop where
  reg : ∀ r, mayWriteReg i r = false → t.reg r = s.reg r
  index : mayWriteI i = false → t.i = s.i
  stack : mayUseStack i = false → t.stack = s.stack ∧ t.sp = s.sp
  dt : (∀ x, i ≠ .ldDtVx x) → t.dt = s.dt
  st : (∀ x, i ≠ .ldStVx x) → t.st = s.st
  display : mayDraw i = false → t.fb = s.fb ∧ t.drawn = s.drawn
  memory : mayStore i = false → t.mem = s.mem
  outputs : unrecognizedForm i = false → t.outputs = s.outputs
  draws : (∀ x nn, i ≠ .rnd x nn) → t.draws = s.draws

/-! One rule per operation of the model: it keeps `WritesOnly` if `i` may write what the operation writes. -/

namespace WritesOnly
variable {i : Instr} {s t : State}

theorem refl : WritesOnly i s s :=
  ⟨fun _ _ => rfl, fun _ => rfl, fun _ => ⟨rfl, rfl⟩, fun _ => rfl, fun _ => rfl, fun _ => ⟨rfl, rfl⟩, fun _ => rfl,
    fun _ => rfl, fun _ => rfl⟩

theorem setPc (h : WritesOnly i s t) (w : Word) : WritesOnly i s (t.setPc w) := { h with }

theorem advance (h : WritesOnly i s t) : WritesOnly i s t.advance := h.setPc _

theorem skipIf (h : WritesOnly i s t) (c : Bool) : WritesOnly i s (t.skipIf c) := by
  rw [State.skipIf_eq]
  exact h.setPc _

theorem setReg (h : WritesOnly i s t) {x : Reg} (hx : mayWriteReg i x = true) (b : Byte) :
    WritesOnly i s (t.setReg x b) :=
  { h with
    reg := fun r hr => by
      have hne : x ≠ r := by
        rintro rfl
        simp [hx] at hr
      rw [State.reg_setReg, if_neg hne, h.reg r hr] }

theorem setFlag (h : WritesOnly i s t) (hF : mayWriteReg i regF = true) (b : Byte) :
    WritesOnly i s (t.setFlag b) := h.setReg hF b

theorem loadRegs (h : WritesOnly i s t) {x : Reg} (hx : ∀ r ≤ x, mayWriteReg i r = true) (base : Nat) :
    WritesOnly i s (t.loadRegs x base) := by
  have hreg : ∀ r, mayWriteReg i r = false → (t.loadRegs x base).reg r = s.reg r := fun r hr => by
    have hgt : ¬ r ≤ x := fun hle => by simp [hx r hle] at hr
    rw [State.reg_loadRegs, if_neg hgt, h.reg r hr]
  rw [State.loadRegs_eq] at hreg ⊢
  exact { h with reg := hreg }

theorem setI (h : WritesOnly i s t) (hi : mayWriteI i = true) (w : Word) : WritesOnly i s (t.setI w) :=
  { h with index := fun hn => by simp [hi] at hn }

theorem setStack (h : WritesOnly i s t) (hi : mayUseStack i = true) (stack : Vector Word 16) (sp : Fin 17) :
    WritesOnly i s { t with stack := stack, sp := sp } :=
  { h with stack := fun hn => by simp [hi] at hn }

theorem setDt {x : Reg} (h : WritesOnly (.ldDtVx x) s t) (b : Byte) : WritesOnly (.ldDtVx x) s (t.setDt b) :=
  { h with dt := fun hn => absurd rfl (hn x) }

theorem setSt {x : Reg} (h : WritesOnly (.ldStVx x) s t) (b : Byte) : WritesOnly (.ldStVx x) s (t.setSt b) :=
  { h with st := fun hn => absurd rfl (hn x) }

theorem setDraws {x : Reg} {nn : Byte} (h : WritesOnly (.rnd x nn) s t) (n : Nat) :
    WritesOnly (.rnd x nn) s { t with draws := n } :=
  { h with draws := fun hn => absurd rfl (hn x nn) }

theorem draw (h : WritesOnly i s t) (hi : mayDraw i = true) (fb : Framebuffer) : WritesOnly i s (t.draw fb) :=
  { h with display := fun hn => by simp [hi] at hn }

theorem writeBytes (h : WritesOnly i s t) (hi : mayStore i = true) (base : Nat) (bs : List Byte) :
    WritesOnly i s (t.writeBytes base bs) := by
  rw [State.writeBytes_eq]
  exact { h with memory := fun hn => by simp [hi] at hn }

theorem logUnrecognized (h : WritesOnly i s t) (hi : unrecognizedForm i = true) (w : Word) :
    WritesOnly i s (t.logUnrecognized w) :=
  { h with outputs := fun hn => by simp [hi] at hn }

end WritesOnly

/-- An instruction that answers a next state is built of operations that write what it may write. -/
theorem exec_writesOnly {i : Instr} {s t : State} (h : exec i s = .next t) : WritesOnly i s t := by
  have r : WritesOnly i s s := .refl
  cases i
  case ldImm | addImm | ldReg | orReg | andReg | xorReg | ldVxDt =>
    cases h
    exact (r.setReg (by simp [mayWriteReg]) _).advance
  case addReg | subReg =>
    cases h
    exact ((r.setReg (by simp [mayWriteReg]) _).setFlag (by simp [mayWriteReg]) _).advance
  case shr | shl =>
    cases h
    exact (((r.setReg (by simp [mayWriteReg]) _).setReg (by simp [mayWriteReg]) _).setFlag
      (by simp [mayWriteReg]) _).advance
  case rnd =>
    obtain ⟨b, -, -, rfl⟩ | ⟨-, rfl⟩ := execRnd_next h
    · exact (r.setReg (by simp [mayWriteReg]) b).advance
    · exact ((r.setDraws _).setReg (by simp [mayWriteReg]) _).advance
  case ldVxK =>
    obtain ⟨-, rfl⟩ | ⟨k, -, rfl⟩ := execLdVxK_next h
    · exact r
    · exact (r.setReg (by simp [mayWriteReg]) _).advance
  case ldVxMem =>
    obtain ⟨-, rfl⟩ := execLdVxMem_next h
    exact (r.loadRegs (by simp [mayWriteReg]) _).advance
  case jp | jpV0 =>
    cases h
    exact r.setPc _
  case seImm | sneImm | seReg | sneReg | skp | sknp =>
    cases h
    exact r.skipIf _
  case call =>
    obtain ⟨_, rfl⟩ := execCall_next h
    exact (r.setStack rfl _ _).setPc _
  case ret =>
    obtain ⟨_, rfl⟩ := execRet_next h
    exact ((r.setStack rfl _ _).setPc _).advance
  case ldI | addIVx | ldFVx =>
    cases h
    exact (r.setI rfl _).advance
  case ldDtVx =>
    cases h
    exact (r.setDt _).advance
  case ldStVx =>
    cases h
    exact (r.setSt _).advance
  case cls =>
    cases h
    exact (r.draw rfl _).advance
  case drw =>
    obtain ⟨-, -, rfl⟩ := execDrw_next h
    exact ((r.draw rfl _).setFlag (by simp [mayWriteReg]) _).advance
  case ldBVx =>
    obtain ⟨-, rfl⟩ := execLdBVx_next h
    exact (r.writeBytes rfl _ _).advance
  case ldMemVx =>
    obtain ⟨-, rfl⟩ := execLdMemVx_next h
    exact (r.writeBytes rfl _ _).advance
  case unrecE | unrecF =>
    cases h
    exact r.logUnrecognized rfl _
  all_goals -- the unrecognized forms of families 0 and 8
    cases h
    exact (r.logUnrecognized rfl _).advance

/-- No instruction writes the state of the run loop. -/
theorem exec_sameRunLoop {i : Instr} {s t : State} (h : exec i s = .next t) : s.SameRunLoop t := by
  rw [exec_next h]
  exact ⟨rfl, rfl, rfl, rfl, rfl, rfl, rfl, rfl, rfl, rfl⟩

/-- Settles O28: every operation of an instruction that writes a register writes one of its destinations. -/
theorem registersChangeOnlyAsDestinations : Obligations.RegistersChangeOnlyAsDestinations :=
  fun _ _ _ h => (exec_writesOnly h).reg

/-- Settles O29: the frame of each instruction, with equal memory and configuration giving equal bytes. -/
theorem otherStateChangesOnlyByItsInstructions : Obligations.OtherStateChangesOnlyByItsInstructions := by
  intro i s t h
  have w := exec_writesOnly h
  have hbytes : mayStore i = false → ∀ a, t.readByte a = s.readByte a := fun hi a => by
    simp only [State.readByte, w.memory hi, (exec_sameRunLoop h).cfg]
  exact ⟨w.index, w.stack, w.dt, w.st, w.display, hbytes, w.outputs, w.draws⟩

/-- Settles O24, by what an instruction can write at most. -/
theorem instructionsLeaveTheRunLoopStateAlone : Obligations.InstructionsLeaveTheRunLoopStateAlone :=
  fun _ _ _ => exec_sameRunLoop

/-! ## The invariant through one instruction -/

theorem State.advance_pc_le {s : State} (h : s.pc.toNat ≤ 0xFFE) : s.advance.pc.toNat ≤ 0x1000 := by
  simp [BitVec.toNat_add]
  omega

theorem State.skipIf_pc_le {s : State} (h : s.pc.toNat ≤ 0xFFE) (c : Bool) : (s.skipIf c).pc.toNat ≤ 0x1002 := by
  rw [State.skipIf_eq]
  cases c <;> simp [BitVec.toNat_add] <;> omega

/-- From a fetchable `PC` and fetchable stack entries, no instruction takes `PC` past the highest target of `BNNN`
(R26, R109). -/
theorem exec_pc_le {i : Instr} {s t : State} (hpc : s.pc.toNat ≤ 0xFFE)
    (hstack : ∀ k : Fin 16, (s.stackEntry k).toNat ≤ 0xFFE) (h : exec i s = .next t) : t.pc.toNat ≤ 0x10FE := by
  have advanced {u : State} (hu : u.pc.toNat ≤ 0xFFE) : u.advance.pc.toNat ≤ 0x10FE :=
    (State.advance_pc_le hu).trans (by omega)
  cases i
  case jp nnn =>
    cases h
    rw [State.setPc_pc, addr16_toNat]
    omega
  case jpV0 nnn =>
    cases h
    rw [State.setPc_pc, jumpV0Target_toNat]
    omega
  case call nnn =>
    obtain ⟨_, rfl⟩ := execCall_next h
    rw [State.setPc_pc, addr16_toNat]
    omega
  case ret =>
    obtain ⟨_, rfl⟩ := execRet_next h
    exact advanced (hstack _)
  case seImm | sneImm | seReg | sneReg | skp | sknp =>
    cases h
    exact (State.skipIf_pc_le hpc _).trans (by omega)
  case rnd =>
    obtain ⟨b, -, -, rfl⟩ | ⟨-, rfl⟩ := execRnd_next h <;> exact advanced hpc
  case drw =>
    obtain ⟨-, -, rfl⟩ := execDrw_next h
    exact advanced hpc
  case ldVxK =>
    obtain ⟨-, rfl⟩ | ⟨k, -, rfl⟩ := execLdVxK_next h
    · omega
    · exact advanced hpc
  case ldBVx =>
    obtain ⟨-, rfl⟩ := execLdBVx_next h
    exact advanced (by rwa [State.writeBytes_pc])
  case ldMemVx =>
    obtain ⟨-, rfl⟩ := execLdMemVx_next h
    exact advanced (by rwa [State.writeBytes_pc])
  case ldVxMem =>
    obtain ⟨-, rfl⟩ := execLdVxMem_next h
    exact advanced (by rwa [State.loadRegs_pc])
  case unrecE | unrecF =>
    cases h
    exact hpc.trans (by omega)
  all_goals -- register, index, timer and clear-screen moves, and the unrecognized forms that advance
    cases h
    exact advanced hpc

/-- The one instruction that stores a stack entry stores its own address (R104). -/
theorem exec_stackEntry_le {i : Instr} {s t : State} (hpc : s.pc.toNat ≤ 0xFFE)
    (hstack : ∀ k : Fin 16, (s.stackEntry k).toNat ≤ 0xFFE) (h : exec i s = .next t) (k : Fin 16) :
    (t.stackEntry k).toNat ≤ 0xFFE := by
  by_cases hi : mayUseStack i = true
  · obtain rfl | ⟨nnn, rfl⟩ := mayUseStack_iff.mp hi
    · obtain ⟨_, rfl⟩ := execRet_next h
      exact hstack k
    · obtain ⟨_, rfl⟩ := execCall_next h
      simp only [State.stackEntry, State.setPc_stack, Vector.getElem_set]
      split
      · exact hpc
      · exact hstack k
  · have hsame := ((exec_writesOnly h).stack (by simpa using hi)).1
    simpa only [State.stackEntry, hsame] using hstack k

/-- The two instructions that store check their range first, so memory keeps its canonical form (R64, R71). -/
theorem exec_wf_mem {i : Instr} {s t : State} (hm : Memory.wf s.cfg.font s.mem = true) (h : exec i s = .next t) :
    Memory.wf t.cfg.font t.mem = true := by
  by_cases hi : mayStore i = true
  · obtain ⟨x, rfl⟩ | ⟨x, rfl⟩ := mayStore_iff.mp hi
    · obtain ⟨hb, rfl⟩ := execLdBVx_next h
      simpa using s.wf_writeBytes _ (bcdDigits (s.reg x)) hm (by rw [bcdDigits_length]; omega)
    · obtain ⟨hb, rfl⟩ := execLdMemVx_next h
      simpa using s.wf_writeBytes _ (s.regsUpTo x) hm (by rw [State.regsUpTo_length]; omega)
  · rwa [(exec_writesOnly h).memory (by simpa using hi), (exec_sameRunLoop h).cfg]

/-! ## The invariant through one iteration -/

theorem State.Inv.executeOne {s t : State} (hs : s.Inv) (h : executeOne s = .next t) : t.Inv := by
  obtain ⟨hpc, h⟩ := executeOne_next h
  have hr := exec_sameRunLoop h
  exact {
    memory := exec_wf_mem hs.memory h
    offset := by rw [hr.offset, hr.cfg]; exact hs.offset
    clkI := by rw [hr.clkI, hr.now]; exact hs.clkI
    clkT := by rw [hr.clkT, hr.now]; exact hs.clkT
    pc := exec_pc_le hpc hs.stack h
    stack := exec_stackEntry_le hpc hs.stack h
    periods := by rw [hr.cfg]; exact hs.periods }

/-- Time that does not run back stays ahead of both markers. -/
theorem State.Inv.accept {s : State} (hs : s.Inv) {inp : HostInput} (hn : s.now ≤ inp.now) : (s.accept inp).Inv :=
  { hs with clkI := hs.clkI.trans hn, clkT := hs.clkT.trans hn }

theorem State.Inv.checkInstr {s : State} (hs : s.Inv) : s.checkInstr.Inv :=
  { hs with clkI := ready_le_now hs.clkI }

theorem State.Inv.takeFault {s : State} (hs : s.Inv) (f : Fault) : (s.takeFault f).Inv := { hs with }

theorem State.timerPhase_clkT_le {s : State} (h : s.clkT ≤ s.now) : s.timerPhase.clkT ≤ s.now := by
  by_cases ht : (s.cfg.tTimer : Int) ≤ s.now - s.clkT
  · rw [State.timerPhase_of_tick ht]
    show s.clkT + (s.cfg.tTimer : Int) ≤ s.now
    omega
  · rwa [State.timerPhase_of_no_tick (by omega)]

theorem State.Inv.finish {s : State} (hs : s.Inv) (inp : HostInput) : (s.finish inp).Inv := by
  rw [State.finish_eq]
  exact { hs with
    offset := adjustOffset_le hs.offset inp.hint
    clkT := State.timerPhase_clkT_le hs.clkT }

/-- Settles O23: taking the inputs, the cadence check, the instruction, the taking of a fault and the rest of the
iteration each keep the invariant. -/
theorem everyStepKeepsTheInvariant : Obligations.EveryStepKeepsTheInvariant := by
  intro s t hs h
  obtain ⟨-, hn, hcases⟩ := step_cases h
  have hc := (hs.accept hn).checkInstr
  obtain ⟨-, rfl⟩ | ⟨-, ⟨u, hu, rfl⟩ | ⟨f, -, rfl⟩⟩ := hcases
  · exact hc.finish _
  · exact (hc.executeOne hu).finish _
  · exact hc.takeFault f

/-! ## The audio gate (R34, R231, R232) -/

theorem State.audioGate_mem_framePhase {s : State} {level : Bool} :
    Output.audioGate level ∈ s.framePhase.outputs ↔ Output.audioGate level ∈ s.outputs := by
  unfold State.framePhase
  split <;> simp

theorem State.audioGate_mem_pollPhase {s : State} {inp : HostInput} {level : Bool} :
    Output.audioGate level ∈ (s.pollPhase inp).outputs ↔ Output.audioGate level ∈ s.outputs := by
  unfold State.pollPhase State.quitIf
  split <;> simp

/-- Without a timer tick the rest of an iteration outputs no gate level of its own. -/
theorem State.audioGate_mem_finish {s : State} (ht : s.now - s.clkT < (s.cfg.tTimer : Int)) {inp : HostInput}
    {level : Bool} : Output.audioGate level ∈ (s.finish inp).outputs ↔ Output.audioGate level ∈ s.outputs := by
  rw [State.finish, State.audioGate_mem_pollPhase, State.audioGate_mem_framePhase, State.timerPhase_of_no_tick ht]

/-- What O16 says of the end of an iteration: the gate and its marker as in `s`, and no gate level output. -/
structure State.GateKept (s t : State) : Prop where
  audio : t.audio = s.audio
  clkT : t.clkT = s.clkT
  silent : ∀ level, Output.audioGate level ∉ t.outputs

theorem State.GateKept.finish {s t : State} (h : s.GateKept t) (ht : t.now - t.clkT < (t.cfg.tTimer : Int))
    (inp : HostInput) : s.GateKept (t.finish inp) where
  audio := by rw [State.finish_eq, State.timerPhase_of_no_tick ht]; exact h.audio
  clkT := by rw [State.finish_eq, State.timerPhase_of_no_tick ht]; exact h.clkT
  silent level := by rw [State.audioGate_mem_finish ht]; exact h.silent level

theorem State.GateKept.exec {s t u : State} {i : Instr} (h : s.GateKept t) (hu : exec i t = .next u) :
    s.GateKept u where
  audio := (exec_sameRunLoop hu).audio.trans h.audio
  clkT := (exec_sameRunLoop hu).clkT.trans h.clkT
  silent level := by
    obtain ⟨-, ho | ⟨code, pc, w, ho⟩⟩ := exec_drawn_outputs hu
    · rw [ho]; exact h.silent level
    · simpa [ho] using h.silent level

/-- Settles O16: an iteration begins with no output, an instruction logs at most an unrecognized word, and the rest of
the iteration moves the gate in its timer tick alone. -/
theorem audioGateMovesOnlyAtTimerTicks : Obligations.AudioGateMovesOnlyAtTimerTicks := by
  intro s t h hbefore
  obtain ⟨-, -, hcases⟩ := step_cases h
  have hc : s.GateKept (s.accept s.nextInput).checkInstr := ⟨rfl, rfl, fun _ => List.not_mem_nil⟩
  have ht : s.nextInput.now - s.clkT < (s.cfg.tTimer : Int) := by omega
  have kept : s.GateKept t := by
    obtain ⟨-, rfl⟩ | ⟨-, ⟨u, hu, rfl⟩ | ⟨f, -, rfl⟩⟩ := hcases
    · exact hc.finish ht _
    · obtain ⟨-, hu⟩ := executeOne_next hu
      have hr := exec_sameRunLoop hu
      exact (hc.exec hu).finish (by rw [hr.now, hr.clkT, hr.cfg]; exact ht) _
    · exact ⟨hc.audio, hc.clkT, hc.silent⟩
  exact ⟨kept.audio, kept.clkT, kept.silent⟩

/-! ## Reset with an image (R38, R57, R58) -/

/-- The reset state with the image `rom` in memory. -/
def bootState (rom : List Byte) (cfg : Config) (t0 : Int) : State := (State.resetWith cfg t0).writeBytes 0x200 rom

theorem bootReset_of_le {rom : List Byte} (h : rom.length ≤ 3584) (cfg : Config) (t0 : Int) :
    bootReset rom cfg t0 = .next (bootState rom cfg t0) := by
  rw [bootReset, if_neg (by omega), bootState]

/-- The image changes memory alone. -/
theorem bootState_eq (rom : List Byte) (cfg : Config) (t0 : Int) :
    bootState rom cfg t0 = { State.resetWith cfg t0 with mem := (bootState rom cfg t0).mem } :=
  State.writeBytes_eq _ _ _

theorem State.resetWith_reg (cfg : Config) (t0 : Int) (x : Reg) : (State.resetWith cfg t0).reg x = 0 := by
  simp [State.resetWith, State.reg]

theorem State.resetWith_stackEntry (cfg : Config) (t0 : Int) (k : Fin 16) :
    (State.resetWith cfg t0).stackEntry k = 0 := by
  simp [State.resetWith, State.stackEntry]

theorem State.resetWith_readByte (cfg : Config) (t0 : Int) (a : Nat) :
    (State.resetWith cfg t0).readByte a = Memory.base cfg.font a := rfl

theorem Memory.base_font (font : Vector Byte 80) {k : Nat} (h : k < 80) : Memory.base font (0x050 + k) = font[k] := by
  have hk : 0x050 ≤ 0x050 + k ∧ 0x050 + k < 0x0A0 := by omega
  simp [Memory.base, hk]

theorem Memory.base_eq_zero (font : Vector Byte 80) {a : Nat} (h : a < 0x050 ∨ 0x0A0 ≤ a) :
    Memory.base font a = 0 := by
  rw [Memory.base, dif_neg (by omega)]

theorem bootState_readByte_image {rom : List Byte} {k : Nat} (h : k < rom.length) (cfg : Config) (t0 : Int) :
    (bootState rom cfg t0).readByte (0x200 + k) = rom[k] := by
  simp [bootState, State.readByte_writeBytes, h]

theorem bootState_readByte_outside {rom : List Byte} {a : Nat} (h : ¬(0x200 ≤ a ∧ a < 0x200 + rom.length))
    (cfg : Config) (t0 : Int) : (bootState rom cfg t0).readByte a = Memory.base cfg.font a := by
  rw [bootState, State.readByte_writeBytes, dif_neg h, State.resetWith_readByte]

/-- Settles O6: the image is a run of stores into the reset state, which changes memory alone, and the font and the
zero bytes lie outside it. -/
theorem bootResetGivesTheResetValues : Obligations.BootResetGivesTheResetValues := by
  intro rom cfg t0 hlen
  have hreg (x : Reg) : (bootState rom cfg t0).reg x = 0 := by
    rw [bootState_eq]
    exact State.resetWith_reg cfg t0 x
  have hstack (k : Fin 16) : (bootState rom cfg t0).stackEntry k = 0 := by
    rw [bootState_eq]
    exact State.resetWith_stackEntry cfg t0 k
  have hfb (x y : Nat) : (bootState rom cfg t0).fb.pixel x y = false := by
    rw [bootState_eq]
    exact Framebuffer.pixel_clear x y
  have hfont (k : Nat) (h : k < 80) : (bootState rom cfg t0).readByte (0x050 + k) = cfg.font[k] := by
    rw [bootState_readByte_outside (by omega), Memory.base_font _ h]
  have hzero (a : Nat) (h : a < 0x050 ∨ (0x0A0 ≤ a ∧ a < 0x200) ∨ 0x200 + rom.length ≤ a) :
      (bootState rom cfg t0).readByte a = 0 := by
    rw [bootState_readByte_outside (by omega), Memory.base_eq_zero _ (by omega)]
  refine ⟨_, bootReset_of_le hlen cfg t0, hreg, ?_, ?_, hstack, ?_, ?_, ?_, hfb, ?_, ?_, ?_, ?_, ?_, ?_, ?_, ?_,
    fun k h => bootState_readByte_image h cfg t0, hfont, hzero⟩
  all_goals -- the fields no image reaches
    rw [bootState_eq]
    rfl

end Sys2Proof.Machine
end

section
/-! PROOF. The memory of `20_memory.md`: the fetch as a big-endian word, the fault of a fetch beyond memory, and the
fetch after a store. -/

namespace Sys2Proof.Machine

/-! ## The fetched word (R60) -/

theorem wordOfBytes_high (hi lo : Byte) : (wordOfBytes hi lo).extractLsb' 8 8 = hi :=
  BitVec.extractLsb'_append_eq_left

theorem wordOfBytes_low (hi lo : Byte) : (wordOfBytes hi lo).extractLsb' 0 8 = lo :=
  BitVec.extractLsb'_append_eq_right

/-- Settles O10: the word is its two bytes in memory order. -/
theorem fetchIsBigEndian : Obligations.FetchIsBigEndian :=
  fun _ hpc => ⟨_, State.fetch_of_le hpc, wordOfBytes_high _ _, wordOfBytes_low _ _⟩

/-! ## The fetch beyond memory (R62, R223, R224) -/

theorem executeOne_of_pc_gt {s : State} (h : 0xFFE < s.pc.toNat) : executeOne s = .fault (.fetchOutOfRange s.pc) := by
  rw [executeOne, State.fetch_of_gt h]

theorem State.checkInstr_of_fires {s : State} (h : s.instrFires = true) :
    s.checkInstr = { s with clkI := s.clkI + ((s.cfg.tInstr0 + s.offset : Nat) : Int) } := by
  rw [State.checkInstr, State.instrPeriod, ready_of_le (s.instrFires_iff.mp h)]

theorem State.accept_instrFires {s : State} {inp : HostInput}
    (h : s.clkI + ((s.cfg.tInstr0 + s.offset : Nat) : Int) ≤ inp.now) : (s.accept inp).instrFires = true := by
  rw [State.instrFires_iff]
  exact Int.le_sub_left_of_add_le h

/-- An iteration whose instruction faults ends with the fault taken (R224). -/
theorem iterate_of_fault {s : State} {inp : HostInput} {f : Fault} (hf : (s.accept inp).instrFires = true)
    (he : executeOne (s.accept inp).checkInstr = .fault f) :
    iterate s inp = .next ((s.accept inp).checkInstr.takeFault f) := by
  simp only [iterate, hf, he, if_true]

/-- Settles O9: taking the inputs and the cadence check leave `PC` alone, so the one instruction is a fetch beyond
memory. -/
theorem fetchBeyondMemoryFaults : Obligations.FetchBeyondMemoryFaults := by
  intro s hr hn hfires hpc
  have hf := State.accept_instrFires hfires
  rw [step_running hr hn, iterate_of_fault hf (executeOne_of_pc_gt hpc), State.checkInstr_of_fires hf]
  rfl

/-! ## Bytes after a store (R69, R189, R190) -/

theorem State.readByte_writeBytes_inside {s : State} {base k : Nat} {bs : List Byte} (h : k < bs.length) :
    (s.writeBytes base bs).readByte (base + k) = bs[k] := by
  simp [State.readByte_writeBytes, h]

theorem State.readByte_writeBytes_outside {s : State} {base a : Nat} {bs : List Byte}
    (h : a < base ∨ base + bs.length ≤ a) : (s.writeBytes base bs).readByte a = s.readByte a := by
  rw [State.readByte_writeBytes, dif_neg (by omega)]

section RegisterStore
variable {x : Reg} {s t : State} (h : exec (.ldMemVx x) s = .next t)
include h

theorem exec_ldMemVx_readByte_stored {k : Reg} (hk : k ≤ x) : t.readByte (s.i.toNat + k.val) = s.reg k := by
  obtain ⟨-, rfl⟩ := execLdMemVx_next h
  have hlen : k.val < (s.regsUpTo x).length := by
    rw [State.regsUpTo_length]
    exact Nat.lt_succ_of_le hk
  rw [State.readByte_advance, State.readByte_writeBytes_inside hlen, State.regsUpTo_getElem]

theorem exec_ldMemVx_readByte_kept {a : Nat} (ha : a < s.i.toNat ∨ s.i.toNat + x.val < a) :
    t.readByte a = s.readByte a := by
  obtain ⟨-, rfl⟩ := execLdMemVx_next h
  rw [State.readByte_advance, State.readByte_writeBytes_outside (by rw [State.regsUpTo_length]; omega)]

end RegisterStore

/-- The digits of a byte, as numbers. -/
theorem bcdDigits_toNat (b : Byte) :
    (bcdDigits b).map BitVec.toNat = [b.toNat / 100, b.toNat / 10 % 10, b.toNat % 10] := by
  have := b.isLt
  simp [bcdDigits]
  omega

section DigitStore
variable {x : Reg} {s t : State} (h : exec (.ldBVx x) s = .next t)
include h

theorem exec_ldBVx_readByte_stored {k : Nat} (hk : k < 3) :
    (t.readByte (s.i.toNat + k)).toNat =
      [(s.reg x).toNat / 100, (s.reg x).toNat / 10 % 10, (s.reg x).toNat % 10][k] := by
  obtain ⟨-, rfl⟩ := execLdBVx_next h
  have hlen : k < (bcdDigits (s.reg x)).length := by rwa [bcdDigits_length]
  simp only [State.readByte_advance, State.readByte_writeBytes_inside hlen, ← bcdDigits_toNat, List.getElem_map]

theorem exec_ldBVx_readByte_kept {a : Nat} (ha : a < s.i.toNat ∨ s.i.toNat + 2 < a) :
    t.readByte a = s.readByte a := by
  obtain ⟨-, rfl⟩ := execLdBVx_next h
  rw [State.readByte_advance, State.readByte_writeBytes_outside (by rw [bcdDigits_length]; omega)]

end DigitStore

/-! ## The fetch after a store (R60, R69) -/

/-- A fetch reads the bytes of any state with the same memory and font, wherever its own `PC` is. -/
theorem State.fetch_of_mem_eq {t u : State} (hm : u.mem = t.mem) (hc : u.cfg = t.cfg) (hpc : u.pc.toNat ≤ 0xFFE) :
    u.fetch = .ok (t.readByte u.pc.toNat ++ t.readByte (u.pc.toNat + 1)) := by
  have hbyte (a : Nat) : u.readByte a = t.readByte a := by rw [State.readByte, hm, hc, State.readByte]
  rw [State.fetch_of_le hpc, hbyte, hbyte, wordOfBytes]

/-- Settles O30: the fetch reads the two bytes the store left at its addresses, and each address is one of those stored
or one of those kept. -/
theorem storesAreSeenByTheNextFetch : Obligations.StoresAreSeenByTheNextFetch := by
  intro x s t u hm hc hpc
  have hfetch := State.fetch_of_mem_eq hm hc hpc
  constructor
  · intro h
    have stored {a : Nat} (k : Reg) (hk : k ≤ x) (ha : a = s.i.toNat + k.val) : t.readByte a = s.reg k :=
      ha ▸ exec_ldMemVx_readByte_stored h hk
    exact ⟨_, _, hfetch, stored, stored, exec_ldMemVx_readByte_kept h, exec_ldMemVx_readByte_kept h⟩
  · intro h
    have hundreds {a : Nat} (ha : a = s.i.toNat) : (t.readByte a).toNat = (s.reg x).toNat / 100 :=
      ha ▸ exec_ldBVx_readByte_stored h (k := 0) (by decide)
    have tens {a : Nat} (ha : a = s.i.toNat + 1) : (t.readByte a).toNat = (s.reg x).toNat / 10 % 10 :=
      ha ▸ exec_ldBVx_readByte_stored h (by decide)
    have units {a : Nat} (ha : a = s.i.toNat + 2) : (t.readByte a).toNat = (s.reg x).toNat % 10 :=
      ha ▸ exec_ldBVx_readByte_stored h (by decide)
    exact ⟨_, _, hfetch, hundreds, tens, units, hundreds, tens, units, exec_ldBVx_readByte_kept h,
      exec_ldBVx_readByte_kept h⟩

end Sys2Proof.Machine
end

section
/-! PROOF. The encoding of `30_encoding.md`: the decoder's families, the readings of family 0, the word that the encoder
gives back, and the unrecognized words. -/

namespace Sys2Proof

/-! ## The word from its family and its operands (R81, R89) -/

section WordOfFamily
variable {w : Word} {f : BitVec 4} (hf : fieldF w = f)
include hf

theorem formNNN_of_fieldF : formNNN f (fieldNNN w) = w := hf ▸ formNNN_fields w

theorem formXNN_of_fieldF {nn : Byte} (hnn : fieldNN w = nn) : formXNN f (fieldX w) nn = w := by
  rw [← hf, ← hnn, formXNN_fields]

theorem formXYN_of_fieldF {n : BitVec 4} (hn : fieldN w = n) : formXYN f (fieldX w) (fieldY w) n = w := by
  rw [← hf, ← hn, formXYN_fields]

end WordOfFamily

theorem fieldNN_eq_extract_fieldNNN (w : Word) : fieldNN w = (fieldNNN w).extractLsb' 0 8 := by
  rw [← fieldNN_formNNN (fieldF w), formNNN_fields]

theorem fieldN_eq_extract_fieldNNN (w : Word) : fieldN w = (fieldNNN w).extractLsb' 0 4 := by
  rw [← fieldN_formNNN (fieldF w), formNNN_fields]

theorem fieldN_eq_extract_fieldNN (w : Word) : fieldN w = (fieldNN w).extractLsb' 0 4 := by
  apply BitVec.eq_of_toNat_eq
  rw [fieldN_toNat]
  simp [fieldNN_toNat]

/-- Two words of one family agree when their low twelve bits do. -/
theorem eq_iff_fieldNNN_eq {w v : Word} (hf : fieldF w = fieldF v) : w = v ↔ fieldNNN w = fieldNNN v := by
  constructor
  · rintro rfl
    rfl
  · intro h
    rw [← formNNN_fields w, ← formNNN_fields v, hf, h]

/-! ## The dispatcher by family (R83, R85) -/

theorem decodeWord_of_family_0 (m : Family0Match) {w : Word} (hf : fieldF w = 0x0#4) :
    decodeWord m w = decode0 m w := by
  simp only [decodeWord, hf]

theorem decodeWord_of_family_5 (m : Family0Match) {w : Word} (hf : fieldF w = 0x5#4) :
    decodeWord m w = .seReg (fieldX w) (fieldY w) := by
  simp only [decodeWord, hf]

theorem decodeWord_of_family_9 (m : Family0Match) {w : Word} (hf : fieldF w = 0x9#4) :
    decodeWord m w = .sneReg (fieldX w) (fieldY w) := by
  simp only [decodeWord, hf]

/-- Settles O4: the low nibble is no operand of the two forms. -/
theorem familiesFiveAndNineIgnoreTheLowNibble : Obligations.FamiliesFiveAndNineIgnoreTheLowNibble := by
  intro m x y n
  have h5 := decodeWord_of_family_5 m (fieldF_formXYN 0x5#4 x y n)
  have h9 := decodeWord_of_family_9 m (fieldF_formXYN 0x9#4 x y n)
  rw [fieldX_formXYN, fieldY_formXYN] at h5 h9
  exact ⟨h5, h9⟩

/-! ## The readings of family 0 (R84) -/

/-- The family-0 words that the reading `m` matches as `CLS`. -/
def MatchesCls (m : Family0Match) (w : Word) : Prop :=
  match m with
  | .fullWord => w = 0x00E0#16
  | .lowByte => fieldNN w = 0xE0#8
  | .lowNibble => fieldN w = 0x0#4

/-- The family-0 words that the reading `m` matches as `RET`. -/
def MatchesRet (m : Family0Match) (w : Word) : Prop :=
  match m with
  | .fullWord => w = 0x00EE#16
  | .lowByte => fieldNN w = 0xEE#8
  | .lowNibble => fieldN w = 0xE#4

/-- Every reading compares at least the low nibble. -/
theorem MatchesCls.fieldN_eq {m : Family0Match} {w : Word} (h : MatchesCls m w) : fieldN w = 0x0#4 := by
  cases m with
  | fullWord => exact congrArg fieldN h
  | lowByte => rw [fieldN_eq_extract_fieldNN, h]; rfl
  | lowNibble => exact h

theorem MatchesRet.fieldN_eq {m : Family0Match} {w : Word} (h : MatchesRet m w) : fieldN w = 0xE#4 := by
  cases m with
  | fullWord => exact congrArg fieldN h
  | lowByte => rw [fieldN_eq_extract_fieldNN, h]; rfl
  | lowNibble => exact h

theorem MatchesRet.not_matchesCls {m : Family0Match} {w : Word} (h : MatchesRet m w) : ¬MatchesCls m w := by
  intro hc
  simpa using hc.fieldN_eq.symm.trans h.fieldN_eq

theorem matchesCls_00E0 (m : Family0Match) : MatchesCls m 0x00E0#16 := by
  cases m <;> rfl

theorem matchesRet_00EE (m : Family0Match) : MatchesRet m 0x00EE#16 := by
  cases m <;> rfl

/-- What family 0 can decode to, by the reading. -/
theorem decode0_cases (m : Family0Match) (w : Word) :
    (MatchesCls m w ∧ decode0 m w = .cls) ∨ (MatchesRet m w ∧ decode0 m w = .ret) ∨
      (¬MatchesCls m w ∧ ¬MatchesRet m w ∧ decode0 m w = .unrec0 (fieldNNN w)) := by
  cases m <;>
  · simp only [decode0, MatchesCls, MatchesRet]
    split
    · exact .inl ⟨‹_›, rfl⟩
    · split
      · exact .inr (.inl ⟨‹_›, rfl⟩)
      · exact .inr (.inr ⟨‹_›, ‹_›, rfl⟩)

theorem decode0_eq_cls_iff {m : Family0Match} {w : Word} : decode0 m w = .cls ↔ MatchesCls m w := by
  obtain ⟨hc, h⟩ | ⟨hr, h⟩ | ⟨hc, -, h⟩ := decode0_cases m w
  · simp [h, hc]
  · simp [h, hr.not_matchesCls]
  · simp [h, hc]

theorem decode0_eq_ret_iff {m : Family0Match} {w : Word} : decode0 m w = .ret ↔ MatchesRet m w := by
  obtain ⟨hc, h⟩ | ⟨hr, h⟩ | ⟨-, hr, h⟩ := decode0_cases m w
  · simp [h, mt MatchesRet.not_matchesCls (not_not_intro hc)]
  · simp [h, hr]
  · simp [h, hr]

theorem decode0_of_not_matches {m : Family0Match} {w : Word} (hc : ¬MatchesCls m w) (hr : ¬MatchesRet m w) :
    decode0 m w = .unrec0 (fieldNNN w) := by
  obtain ⟨h, -⟩ | ⟨h, -⟩ | ⟨-, -, h⟩ := decode0_cases m w
  · exact absurd h hc
  · exact absurd h hr
  · exact h

/-- Settles O5: every reading matches 00E0 and 00EE, and none a word of another low nibble. -/
theorem familyZeroReadings : Obligations.FamilyZeroReadings := by
  intro m
  refine ⟨?_, ?_, fun w hf => ?_⟩
  · exact (decodeWord_of_family_0 m rfl).trans (decode0_eq_cls_iff.mpr (matchesCls_00E0 m))
  · exact (decodeWord_of_family_0 m rfl).trans (decode0_eq_ret_iff.mpr (matchesRet_00EE m))
  · rw [decodeWord_of_family_0 m hf, decode0_eq_cls_iff, decode0_eq_ret_iff]
    refine ⟨fun ⟨h0, hE⟩ => decode0_of_not_matches (h0 ·.fieldN_eq) (hE ·.fieldN_eq), ?_, ?_⟩ <;>
    · cases m <;> exact Iff.rfl

/-! ## The decoder's forms are well-formed (R83) -/

/-- The well-formedness of `0NNN` excludes the words its reading matches. -/
theorem family0Matched_fieldNNN (m : Family0Match) {w : Word} (hf : fieldF w = 0x0#4) :
    family0Matched m (fieldNNN w) = true ↔ MatchesCls m w ∨ MatchesRet m w := by
  cases m with
  | fullWord =>
    have hE0 : w = 0x00E0#16 ↔ fieldNNN w = 0x0E0#12 := eq_iff_fieldNNN_eq hf
    have hEE : w = 0x00EE#16 ↔ fieldNNN w = 0x0EE#12 := eq_iff_fieldNNN_eq hf
    simp [family0Matched, MatchesCls, MatchesRet, hE0, hEE]
  | lowByte => simp [family0Matched, MatchesCls, MatchesRet, fieldNN_eq_extract_fieldNNN]
  | lowNibble => simp [family0Matched, MatchesCls, MatchesRet, fieldN_eq_extract_fieldNNN]

theorem decode0_wellFormed (m : Family0Match) {w : Word} (hf : fieldF w = 0x0#4) :
    (decode0 m w).wellFormed m = true := by
  obtain ⟨-, h⟩ | ⟨-, h⟩ | ⟨hc, hr, h⟩ := decode0_cases m w
  · rw [h]; rfl
  · rw [h]; rfl
  · simp [h, Instr.wellFormed, ← Bool.not_eq_true, family0Matched_fieldNNN m hf, hc, hr]

theorem decode8_wellFormed (m : Family0Match) (w : Word) : (decode8 w).wellFormed m = true := by
  unfold decode8
  split <;> rfl

theorem decodeE_wellFormed (m : Family0Match) (w : Word) : (decodeE w).wellFormed m = true := by
  unfold decodeE
  split
  case h_3 => simp_all [Instr.wellFormed, familyEMatched]
  all_goals rfl

theorem decodeF_wellFormed (m : Family0Match) (w : Word) : (decodeF w).wellFormed m = true := by
  unfold decodeF
  split
  case h_10 => simp_all [Instr.wellFormed, familyFMatched]
  all_goals rfl

theorem decodeWord_wellFormed (m : Family0Match) (w : Word) : (decodeWord m w).wellFormed m = true := by
  unfold decodeWord
  split
  case h_1 hf => exact decode0_wellFormed m hf
  case h_9 => exact decode8_wellFormed m w
  case h_15 => exact decodeE_wellFormed m w
  case h_16 => exact decodeF_wellFormed m w
  all_goals rfl

/-! ## The word that comes back (R83, R84, R85) -/

/-- The unrecognized words of family 0 come back. -/
theorem encode_decode0 {m : Family0Match} {w : Word} (hf : fieldF w = 0x0#4) (hc : decode0 m w ≠ .cls)
    (hr : decode0 m w ≠ .ret) : encode (decode0 m w) = w := by
  rw [Ne, decode0_eq_cls_iff] at hc
  rw [Ne, decode0_eq_ret_iff] at hr
  rw [decode0_of_not_matches hc hr]
  exact formNNN_of_fieldF hf

theorem encode_decode0_fullWord {w : Word} (hf : fieldF w = 0x0#4) : encode (decode0 .fullWord w) = w := by
  obtain ⟨hc, h⟩ | ⟨hr, h⟩ | ⟨-, -, h⟩ := decode0_cases .fullWord w
  · rw [h]; exact Eq.symm hc
  · rw [h]; exact Eq.symm hr
  · rw [h]; exact formNNN_of_fieldF hf

theorem encode_decode8 {w : Word} (hf : fieldF w = 0x8#4) : encode (decode8 w) = w := by
  unfold decode8
  split
  case h_16 =>
    have hn : fieldN w = 0xF#4 := by simp only [imp_false] at *; bv_omega
    exact formXYN_of_fieldF hf hn
  all_goals exact formXYN_of_fieldF hf ‹_›

theorem encode_decodeE {w : Word} (hf : fieldF w = 0xE#4) : encode (decodeE w) = w := by
  unfold decodeE
  split
  case h_3 => exact formXNN_of_fieldF hf rfl
  all_goals exact formXNN_of_fieldF hf ‹_›

theorem encode_decodeF {w : Word} (hf : fieldF w = 0xF#4) : encode (decodeF w) = w := by
  unfold decodeF
  split
  case h_10 => exact formXNN_of_fieldF hf rfl
  all_goals exact formXNN_of_fieldF hf ‹_›

/-- Outside families 5 and 9 a word comes back if it does so in family 0. -/
theorem encode_decodeWord {m : Family0Match} {w : Word} (h5 : fieldF w ≠ 0x5#4) (h9 : fieldF w ≠ 0x9#4)
    (h0 : fieldF w = 0x0#4 → encode (decode0 m w) = w) : encode (decodeWord m w) = w := by
  unfold decodeWord
  split
  case h_1 hf => exact h0 hf
  case h_2 hf | h_3 hf | h_11 hf | h_12 hf => exact formNNN_of_fieldF hf
  case h_4 hf | h_5 hf | h_7 hf | h_8 hf | h_13 hf => exact formXNN_of_fieldF hf rfl
  case h_6 hf => exact absurd hf h5
  case h_10 hf => exact absurd hf h9
  case h_9 hf => exact encode_decode8 hf
  case h_14 hf => exact formXYN_of_fieldF hf rfl
  case h_15 hf => exact encode_decodeE hf
  case h_16 =>
    have hf : fieldF w = 0xF#4 := by simp only [imp_false] at *; bv_omega
    exact encode_decodeF hf

/-- Settles O3: family by family the form is well-formed and its operands are the fields of the word. -/
theorem everyWordDecodesToOneWellFormedForm : Obligations.EveryWordDecodesToOneWellFormedForm := by
  refine fun m w => ⟨decodeWord_wellFormed m w, fun h5 h9 hm => encode_decodeWord h5 h9 fun hf => ?_⟩
  rw [decodeWord_of_family_0 m hf] at hm
  obtain rfl | rfl | rfl | ⟨hc, hr⟩ := hm
  · exact encode_decode0_fullWord hf
  · rw [decode0_eq_cls_iff.mpr (matchesCls_00E0 m)]
    rfl
  · rw [decode0_eq_ret_iff.mpr (matchesRet_00EE m)]
    rfl
  · exact encode_decode0 hf hc hr

end Sys2Proof

namespace Sys2Proof.Machine

/-! ## The unrecognized forms (R86, R221) -/

/-- Settles O57: the forms of families E and F hold, the others advance. -/
theorem unrecognizedFormsLogAndGoOn : Obligations.UnrecognizedFormsLogAndGoOn := by
  intro i s h
  cases i
  case unrecE | unrecF => rfl
  case unrec0 | unrec8xy7 | unrec8xy8 | unrec8xy9 | unrec8xyA | unrec8xyB | unrec8xyC | unrec8xyD | unrec8xyF => rfl
  all_goals cases h

/-- The families of the unrecognized forms, and which of them hold `PC`. -/
theorem unrecognizedForm_family {i : Instr} (h : unrecognizedForm i = true) :
    ((fieldF (encode i) = 0x0#4 ∨ fieldF (encode i) = 0x8#4) ∧ holdsPc i = false) ∨
      ((fieldF (encode i) = 0xE#4 ∨ fieldF (encode i) = 0xF#4) ∧ holdsPc i = true) := by
  cases i
  case unrec0 => exact .inl ⟨.inl (fieldF_formNNN _ _), rfl⟩
  case unrecE => exact .inr ⟨.inl (fieldF_formXNN _ _ _), rfl⟩
  case unrecF => exact .inr ⟨.inr (fieldF_formXNN _ _ _), rfl⟩
  case unrec8xy7 | unrec8xy8 | unrec8xy9 | unrec8xyA | unrec8xyB | unrec8xyC | unrec8xyD | unrec8xyF =>
    exact .inl ⟨.inr (fieldF_formXYN _ _ _ _), rfl⟩
  all_goals cases h

/-- An unrecognized word comes back under every reading: families 5 and 9 hold none, and `CLS` and `RET` are none. -/
theorem encode_decodeWord_of_unrecognized {m : Family0Match} {w : Word}
    (h : unrecognizedForm (decodeWord m w) = true) : encode (decodeWord m w) = w := by
  apply encode_decodeWord
  · intro hf
    rw [decodeWord_of_family_5 m hf] at h
    cases h
  · intro hf
    rw [decodeWord_of_family_9 m hf] at h
    cases h
  · intro hf
    rw [decodeWord_of_family_0 m hf] at h
    apply encode_decode0 hf <;>
    · intro hi
      rw [hi] at h
      cases h

/-- One instruction executes what the word at `PC` decodes to (R60, R237). -/
theorem executeOne_of_word {s : State} {w : Word} (hpc : s.pc.toNat ≤ 0xFFE)
    (hhi : s.readByte s.pc.toNat = w.extractLsb' 8 8) (hlo : s.readByte (s.pc.toNat + 1) = w.extractLsb' 0 8) :
    executeOne s = exec (decodeWord s.cfg.family0 w) s := by
  rw [executeOne, State.fetch_of_le hpc, hhi, hlo, wordOfBytes_bytesOfWord]

/-- Settles O58: the word logged is the encoding of the form, which is the word fetched. -/
theorem fetchedUnrecognizedWordIsLogged : Obligations.FetchedUnrecognizedWordIsLogged := by
  intro s w hpc hhi hlo h
  have hexec := unrecognizedFormsLogAndGoOn _ s h
  have hfamily := unrecognizedForm_family h
  rw [encode_decodeWord_of_unrecognized h] at hexec hfamily
  rw [executeOne_of_word hpc hhi hlo, hexec, unrecognizedCode]
  obtain ⟨hf | hf, hhold⟩ | ⟨hf | hf, hhold⟩ := hfamily <;> simp [hf, hhold]

end Sys2Proof.Machine
end

section
/-! PROOF. The control flow of `40_control_flow.md`: the jumps, the call and the return, and the conditional skips. -/

namespace Sys2Proof.Machine

/-! ## Jumps (R103, R109) -/

/-- Settles O40: the target is the operand itself. -/
theorem jumpGoesToItsAddress : Obligations.JumpGoesToItsAddress :=
  fun nnn s => ⟨s.setPc (addr16 nnn), rfl, addr16_toNat nnn, rfl⟩

/-- Settles O46: the exact sum of a byte and a 12-bit address fits in `PC` (D7). -/
theorem jumpV0AddsWithoutWrap : Obligations.JumpV0AddsWithoutWrap := by
  intro nnn s
  have htarget := jumpV0Target_toNat (s.reg 0) nnn
  refine ⟨s.setPc (jumpV0Target (s.reg 0) nnn), rfl, htarget, ?_, rfl⟩
  rw [State.setPc_pc, htarget]
  omega

/-! ## Call and return (R102, R104) -/

/-- `CALL` with room pushes its own address, jumps and changes nothing else (R28, R104). -/
theorem exec_call_of_lt {s : State} (h : s.sp.val < 16) (nnn : Addr12) :
    exec (.call nnn) s =
      .next { s with stack := s.stack.set s.sp.val s.pc h, sp := ⟨s.sp.val + 1, by omega⟩, pc := addr16 nnn } := by
  simp only [exec, execCall, State.push_of_lt h, State.setPc]

theorem exec_call_of_full {s : State} (h : s.sp.val = 16) (nnn : Addr12) :
    exec (.call nnn) s = .fault (.stackOverflow s.pc) := by
  simp only [exec, execCall, (State.push_eq_none s.pc).mpr h]

/-- `RET` with an entry in use goes on past the address in it, and lowers `SP` alone: the entry stays (R28, R102). -/
theorem exec_ret_of_pos {s : State} (h : s.sp.val ≠ 0) :
    exec .ret s =
      .next { s with sp := ⟨s.sp.val - 1, by omega⟩, pc := s.stackEntry ⟨s.sp.val - 1, by omega⟩ + 2 } := by
  simp only [exec, execRet, State.pop_of_pos h]
  rfl

theorem exec_ret_of_empty {s : State} (h : s.sp.val = 0) : exec .ret s = .fault (.stackUnderflow s.pc) := by
  simp only [exec, execRet, State.pop_eq_none.mpr h]

/-- Settles O41: with room, the entry at `SP` and no other is written; the full stack has no entry to write. -/
theorem callPushesItsOwnAddress : Obligations.CallPushesItsOwnAddress := by
  intro nnn s
  refine ⟨fun h => ⟨_, exec_call_of_lt h nnn, addr16_toNat nnn, rfl, fun k => ?_, rfl⟩,
    fun h => exec_call_of_full h nnn⟩
  simp only [State.stackEntry, Vector.getElem_set, eq_comm]

/-- Settles O42: the entry read is the one below `SP`, and the empty stack has none. -/
theorem returnGoesPastTheCallSite : Obligations.ReturnGoesPastTheCallSite := by
  intro s
  refine ⟨fun h => ⟨_, exec_ret_of_pos (by omega), ?_, fun k hk => ?_, rfl⟩, exec_ret_of_empty⟩
  · show s.sp.val - 1 + 1 = s.sp.val
    omega
  · exact congrArg (s.stackEntry · + 2) (Fin.ext hk.symm)

/-- Settles O43: the entry below the raised `SP` is the one the call wrote, so the return reads the call site. -/
theorem callThenReturnContinuesAfterTheCall : Obligations.CallThenReturnContinuesAfterTheCall := by
  intro nnn s h
  refine ⟨_, exec_call_of_lt h nnn, fun u hstack hsp => ?_⟩
  have hret : exec .ret u = .next { u with sp := s.sp, pc := s.pc + 2 } := by
    rw [exec_ret_of_pos (by simp [hsp])]
    simp [State.stackEntry, hstack, hsp]
  exact ⟨_, hret, rfl, rfl, rfl⟩

/-! ## Skips (R101, R105–R108) -/

/-- A skip on equality moves `PC` by 4 or 2 and changes nothing else. -/
theorem State.skipIf_beq (s : State) (a b : Byte) :
    s.skipIf (a == b) = { s with pc := if a = b then s.pc + 4 else s.pc + 2 } := by
  simp [State.skipIf_eq, BitVec.add_assoc]

/-- A skip on inequality is the complement of the skip on equality (R106). -/
theorem State.skipIf_bne (s : State) (a b : Byte) :
    s.skipIf (a != b) = { s with pc := if a = b then s.pc + 2 else s.pc + 4 } := by
  simp [State.skipIf_eq, BitVec.add_assoc]

/-- Settles O44: the two skips on the comparison of `VX` with `NN`. -/
theorem skipsOnImmediate : Obligations.SkipsOnImmediate :=
  fun x nn s => ⟨congrArg _ (s.skipIf_beq (s.reg x) nn), congrArg _ (s.skipIf_bne (s.reg x) nn)⟩

/-- Settles O45: the same two skips with `VY` for `NN`. -/
theorem skipsOnRegisters : Obligations.SkipsOnRegisters :=
  fun x y s => ⟨congrArg _ (s.skipIf_beq (s.reg x) (s.reg y)), congrArg _ (s.skipIf_bne (s.reg x) (s.reg y))⟩

end Sys2Proof.Machine
end

section
/-! PROOF. The register loads and arithmetic of `41_register_alu.md`: what each instruction writes, in the order `VX`,
`VY`, `VF`, and the whole next state. -/

namespace Sys2Proof.Machine

/-! ## Flags (R139–R142) -/

theorem carryFlag_eq (a b : Byte) : carryFlag a b = if 0xFF < a.toNat + b.toNat then 1 else 0 := by
  simp [carryFlag, flagOf]

theorem noBorrowFlag_eq (a b : Byte) : noBorrowFlag a b = if a.toNat ≥ b.toNat then 1 else 0 := by
  simp [noBorrowFlag, flagOf]

theorem flagOf_toNat (c : Bool) : (flagOf c).toNat = c.toNat := by
  cases c <;> rfl

theorem lowBitFlag_toNat (v : Byte) : (lowBitFlag v).toNat = v.toNat % 2 := by
  rw [lowBitFlag, flagOf_toNat, BitVec.getLsbD, Nat.toNat_testBit, pow_zero, Nat.div_one]

/-- The bit a left shift drops is the quotient by 128, as 0 or 1 (D17). -/
theorem highBitFlag_toNat (v : Byte) : (highBitFlag v).toNat = v.toNat / 128 := by
  have hquot : v.toNat / 128 < 2 := by omega
  rw [highBitFlag, flagOf_toNat, BitVec.getLsbD, Nat.toNat_testBit]
  exact Nat.mod_eq_of_lt hquot

/-- The byte of a modular difference is the exact difference modulo 256 (R130, R140). -/
theorem subByte_toNat_eq_emod (a b : Byte) : ((subByte a b).toNat : Int) = (a.toNat - b.toNat : Int) % 256 := by
  rw [subByte_toNat]
  omega

/-! ## Registers not written (R20, R131) -/

theorem State.reg_setReg_of_ne {x r : Reg} (h : r ≠ x) (s : State) (b : Byte) : (s.setReg x b).reg r = s.reg r := by
  rw [State.reg_setReg, if_neg h.symm]

theorem State.reg_setFlag_of_ne {r : Reg} (h : r ≠ 15) (s : State) (f : Byte) : (s.setFlag f).reg r = s.reg r :=
  State.reg_setReg_of_ne h s f

/-! ## The next state by the registers written (R131)

One rule for each number of registers an instruction writes: what each receives, that the other registers are as
before, and that nothing but the register file and `PC` moves. -/

section RegisterWrites

variable {i : Instr} {s : State} {x y : Reg} {b f : Byte}

theorem exec_of_setReg (h : exec i s = .next (s.setReg x b).advance) :
    ∃ t, exec i s = .next t ∧ t.reg x = b ∧ (∀ r, r ≠ x → t.reg r = s.reg r) ∧
      t = { s with v := t.v, pc := s.pc + 2 } :=
  ⟨_, h, s.reg_setReg_self x b, fun _ hr => s.reg_setReg_of_ne hr b, rfl⟩

/-- The flag is written last, so with `X = F` it overwrites the result. -/
theorem exec_of_setReg_setFlag (h : exec i s = .next ((s.setReg x b).setFlag f).advance) :
    ∃ t, exec i s = .next t ∧ (x ≠ 15 → t.reg x = b) ∧ t.reg 15 = f ∧ (∀ r, r ≠ x → r ≠ 15 → t.reg r = s.reg r) ∧
      t = { s with v := t.v, pc := s.pc + 2 } := by
  refine ⟨_, h, fun hF => ?_, State.reg_setFlag_self _ f, fun r hx hF => ?_, rfl⟩
  · rw [State.reg_advance, State.reg_setFlag_of_ne hF, State.reg_setReg_self]
  · rw [State.reg_advance, State.reg_setFlag_of_ne hF, State.reg_setReg_of_ne hx]

/-- A shift overwrites its source `VY` and then `VF` with the one flag, so `VY` holds it even when it is `VF`. -/
theorem exec_of_setReg_setReg_setFlag (h : exec i s = .next (((s.setReg x b).setReg y f).setFlag f).advance) :
    ∃ t, exec i s = .next t ∧ t.reg 15 = f ∧ t.reg y = f ∧ (x ≠ y → x ≠ 15 → t.reg x = b) ∧
      (∀ r, r ≠ x → r ≠ y → r ≠ 15 → t.reg r = s.reg r) ∧ t = { s with v := t.v, pc := s.pc + 2 } := by
  refine ⟨_, h, State.reg_setFlag_self _ f, ?_, fun hy hF => ?_, fun r hx hy hF => ?_, rfl⟩
  · rw [State.reg_advance, State.reg_setFlag, State.reg_setReg_self, ite_self]
  · rw [State.reg_advance, State.reg_setFlag_of_ne hF, State.reg_setReg_of_ne hy, State.reg_setReg_self]
  · rw [State.reg_advance, State.reg_setFlag_of_ne hF, State.reg_setReg_of_ne hy, State.reg_setReg_of_ne hx]

end RegisterWrites

/-! ## Loads and logic (R133–R138, R143) -/

/-- Settles O31: one register written, with the operand itself. -/
theorem loadImmediate : Obligations.LoadImmediate := fun _ _ _ => exec_of_setReg rfl

/-- Settles O32: one register written, with the sum reduced to a byte. -/
theorem addImmediateWrapsWithoutFlag : Obligations.AddImmediateWrapsWithoutFlag := by
  intro x nn s
  obtain ⟨t, hexec, hx, hframe⟩ := exec_of_setReg (i := .addImm x nn) (s := s) rfl
  refine ⟨t, hexec, ?_, hframe⟩
  rw [hx, addByte_eq, BitVec.toNat_add]

/-- Settles O33: one register written by each of the four. -/
theorem assignAndLogic : Obligations.AssignAndLogic :=
  fun _ _ _ => ⟨exec_of_setReg rfl, exec_of_setReg rfl, exec_of_setReg rfl, exec_of_setReg rfl⟩

/-- Settles O38: the operand is zero-extended. -/
theorem loadIndex : Obligations.LoadIndex :=
  fun nnn s => ⟨(s.setI (addr16 nnn)).advance, rfl, addr16_toNat nnn, rfl⟩

/-! ## Arithmetic with a flag (R139–R142) -/

/-- Settles O34: the sum, then the carry. -/
theorem addSetsCarry : Obligations.AddSetsCarry := by
  intro x y s
  obtain ⟨t, hexec, hx, hF, hframe⟩ := exec_of_setReg_setFlag (i := .addReg x y) (s := s) rfl
  refine ⟨t, hexec, fun hne => ?_, hF.trans (carryFlag_eq _ _), hframe⟩
  rw [hx hne, addByte_eq, BitVec.toNat_add]

/-- Settles O35: the difference, then the not-borrow. -/
theorem subtractSetsNotBorrow : Obligations.SubtractSetsNotBorrow := by
  intro x y s
  obtain ⟨t, hexec, hx, hF, hframe⟩ := exec_of_setReg_setFlag (i := .subReg x y) (s := s) rfl
  refine ⟨t, hexec, fun hne => ?_, hF.trans (noBorrowFlag_eq _ _), hframe⟩
  rw [hx hne, subByte_toNat_eq_emod]

/-- Settles O36: the half, then the low bit to `VY` and to `VF`. -/
theorem shiftRightMutatesVY : Obligations.ShiftRightMutatesVY := by
  intro x y s
  obtain ⟨t, hexec, hF, hy, hx, hframe⟩ := exec_of_setReg_setReg_setFlag (i := .shr x y) (s := s) rfl
  rw [← lowBitFlag_toNat, ← shrByte_toNat]
  exact ⟨t, hexec, congrArg _ hF, congrArg _ hy, fun hxy hxF => congrArg _ (hx hxy hxF), hframe⟩

/-- Settles O37: the double reduced to a byte, then the high bit to `VY` and to `VF`. -/
theorem shiftLeftMutatesVY : Obligations.ShiftLeftMutatesVY := by
  intro x y s
  obtain ⟨t, hexec, hF, hy, hx, hframe⟩ := exec_of_setReg_setReg_setFlag (i := .shl x y) (s := s) rfl
  rw [← highBitFlag_toNat, ← shlByte_toNat]
  exact ⟨t, hexec, congrArg _ hF, congrArg _ hy, fun hxy hxF => congrArg _ (hx hxy hxF), hframe⟩

/-! ## The random byte (R144, R250) -/

/-- A free random byte lies within the mask (log 4). -/
theorem hostRandom_le (draws : Nat) (nn : Byte) : BitVec.ofNat 8 (Config.hostRandom draws nn).val ≤ nn := by
  rw [BitVec.le_def, BitVec.toNat_ofNat]
  omega

theorem exec_rnd_of_le {s : State} {nn r : Byte} (hr : s.rnd = some r) (hle : r ≤ nn) (x : Reg) :
    exec (.rnd x nn) s = .next (s.setReg x r).advance := by
  simp only [exec, execRnd, hr, if_pos hle]

theorem exec_rnd_of_gt {s : State} {nn r : Byte} (hr : s.rnd = some r) (hgt : nn < r) (x : Reg) :
    exec (.rnd x nn) s = .refused .hostRandomAboveMask := by
  simp only [exec, execRnd, hr, if_neg (BitVec.not_le.mpr hgt)]

theorem exec_rnd_of_none {s : State} (hr : s.rnd = none) (x : Reg) (nn : Byte) :
    exec (.rnd x nn) s = .next ({ s with draws := s.draws + 1 }.setReg x
      (BitVec.ofNat 8 (Config.hostRandom s.draws nn).val)).advance := by
  simp only [exec, execRnd, hr]

/-- Settles O39: the prescribed byte within the mask, a free byte within it, or the refusal. -/
theorem randomIsTheHostsByteWithinTheMask : Obligations.RandomIsTheHostsByteWithinTheMask :=
  fun x nn s => ⟨fun _ hr hle => exec_rnd_of_le hr hle x,
    fun hr => ⟨_, hostRandom_le s.draws nn, exec_rnd_of_none hr x nn⟩, fun _ hr hgt => exec_rnd_of_gt hr hgt x⟩

end Sys2Proof.Machine
end

section
/-! PROOF. The display of `42_display.md`: the cleared screen, the drawn sprite with its collision flag, and the two
faults of a draw in their order. -/

namespace Sys2Proof.Machine

/-! ## Clear (R160) -/

/-- Settles O47: the clear framebuffer has no pixel set, and nothing but it, `drawn` and `PC` is written. -/
theorem clearUnsetsEveryPixel : Obligations.ClearUnsetsEveryPixel :=
  fun _ => ⟨_, rfl, fun x y _ _ => Framebuffer.pixel_clear x y, rfl, rfl⟩

/-! ## The first of a sprite's pixels with a property (R162, R164) -/

/-- A search of pixels in the order of R162 finds one that comes before every other it could have found. -/
theorem find?_pixelBefore {ps : List (Nat × Nat)} (hps : ps.Pairwise PixelBefore) {f : Nat × Nat → Bool}
    {p q : Nat × Nat} (hp : ps.find? f = some p) (hq : q ∈ ps) (hf : f q = true) : q = p ∨ PixelBefore p q := by
  obtain ⟨-, before, after, rfl, hbefore⟩ := List.find?_eq_some_iff_append.mp hp
  obtain hmem | rfl | hmem : q ∈ before ∨ q = p ∨ q ∈ after := by simpa using hq
  · exact absurd hf (by simpa using hbefore q hmem)
  · exact .inl rfl
  · exact .inr (List.rel_of_pairwise_cons (List.pairwise_append.mp hps).2.1 hmem)

section Draw

variable {x y : Reg} {n : Fin 16} {s : State}

/-! ## The outcomes of a draw (R162, R166) -/

theorem exec_drw_of_memory_beyond (hn : 0 < n.val) (hb : 0xFFF < s.i.toNat + n.val - 1) :
    exec (.drw x y n) s = .fault (.memOutOfRange (max s.i.toNat 0x1000)) := by
  have hbeyond : firstBeyond s.i.toNat n.val = some (max s.i.toNat 0x1000) :=
    firstBeyond_eq_some.mpr ⟨hn, by omega, rfl⟩
  simp only [exec, execDrw, hbeyond]

theorem firstBeyond_sprite_eq_none (h : n.val = 0 ∨ s.i.toNat + n.val - 1 ≤ 0xFFF) :
    firstBeyond s.i.toNat n.val = none :=
  firstBeyond_eq_none.mpr (by omega)

theorem exec_drw_of_pixel_offScreen (hmem : n.val = 0 ∨ s.i.toNat + n.val - 1 ≤ 0xFFF) {p : Nat × Nat}
    (hp : (s.drawnPixels x y n).find? offScreen = some p) :
    exec (.drw x y n) s = .fault (.drawOutOfRange p.1 p.2) := by
  simp only [exec, execDrw, firstBeyond_sprite_eq_none hmem, hp]

theorem exec_drw_of_onScreen (hmem : n.val = 0 ∨ s.i.toNat + n.val - 1 ≤ 0xFFF)
    (hscreen : ∀ p ∈ s.drawnPixels x y n, p.1 < 64 ∧ p.2 < 32) :
    exec (.drw x y n) s = .next ((s.draw (blitPixels (s.drawnPixels x y n) s.fb false).1).setFlag
      (collisionFlag (blitPixels (s.drawnPixels x y n) s.fb false).2)).advance := by
  have hnone : (s.drawnPixels x y n).find? offScreen = none :=
    List.find?_eq_none.mpr fun p hp => by simp [offScreen_eq_false.mpr (hscreen p hp)]
  simp only [exec, execDrw, firstBeyond_sprite_eq_none hmem, hnone]

/-! ## The blit of a sprite on the screen (R161–R164) -/

theorem State.pixel_blit_drawnPixels (hscreen : ∀ p ∈ s.drawnPixels x y n, p.1 < 64 ∧ p.2 < 32) (px py : Nat) :
    (blitPixels (s.drawnPixels x y n) s.fb false).1.pixel px py =
      (s.fb.pixel px py ^^ s.spriteBit x y n px py) := by
  simp [pixel_blitPixels _ _ _ (s.nodup_drawnPixels x y n) hscreen, State.mem_drawnPixels]

theorem State.collision_blit_drawnPixels (hscreen : ∀ p ∈ s.drawnPixels x y n, p.1 < 64 ∧ p.2 < 32) :
    (blitPixels (s.drawnPixels x y n) s.fb false).2 = true ↔
      ∃ px py, s.spriteBit x y n px py = true ∧ s.fb.pixel px py = true := by
  simp [collision_blitPixels _ _ _ (s.nodup_drawnPixels x y n) hscreen, State.mem_drawnPixels]

end Draw

/-- Settles O48: the set sprite bits are the pixels blitted, each once, and the flag is their collision. -/
theorem drawTogglesTheSpriteAndFlagsCollision : Obligations.DrawTogglesTheSpriteAndFlagsCollision := by
  intro x y n s hmem hbits
  have hscreen : ∀ p ∈ s.drawnPixels x y n, p.1 < 64 ∧ p.2 < 32 :=
    fun p hp => hbits p.1 p.2 (State.mem_drawnPixels.mp hp)
  have hcollision := State.collision_blit_drawnPixels hscreen
  refine ⟨_, exec_drw_of_onScreen hmem hscreen, fun px py _ _ => State.pixel_blit_drawnPixels hscreen px py,
    fun hmet => ?_, fun hunmet => ?_, fun r hr => State.reg_setFlag_of_ne hr _ _, rfl, rfl⟩
  · rw [State.reg_advance, hcollision.mpr hmet]
    exact State.reg_setFlag_self _ _
  · have hnone : (blitPixels (s.drawnPixels x y n) s.fb false).2 = false := by
      rw [← Bool.not_eq_true, hcollision]
      rintro ⟨px, py, hbit, hset⟩
      rw [hunmet px py hbit] at hset
      cases hset
    rw [State.reg_advance, hnone]
    exact State.reg_setFlag_self _ _

/-- Settles O49: the memory check comes first, and the screen check finds the first of the set bits off the screen. -/
theorem drawFaultsInOrder : Obligations.DrawFaultsInOrder := by
  intro x y n s
  refine ⟨exec_drw_of_memory_beyond, fun hmem ⟨qx, qy, hbit, hoff⟩ => ?_⟩
  have hsome : ((s.drawnPixels x y n).find? offScreen).isSome :=
    List.find?_isSome.mpr ⟨(qx, qy), State.mem_drawnPixels.mpr hbit, offScreen_eq_true.mpr hoff⟩
  obtain ⟨p, hp⟩ := Option.isSome_iff_exists.mp hsome
  refine ⟨p.1, p.2, exec_drw_of_pixel_offScreen hmem hp, State.mem_drawnPixels.mp (List.mem_of_find?_eq_some hp),
    offScreen_eq_true.mp (List.find?_some hp), fun px py hbit hoff => ?_⟩
  have hfirst := find?_pixelBefore (s.pairwise_drawnPixels x y n) hp
    (State.mem_drawnPixels (p := (px, py)).mpr hbit) (offScreen_eq_true.mpr hoff)
  obtain rfl | hrow | ⟨hrow, hcol⟩ := hfirst
  · exact .inr ⟨rfl, le_rfl⟩
  · exact .inl hrow
  · exact .inr ⟨hrow, hcol.le⟩

end Sys2Proof.Machine
end

section
/-! PROOF. The keys, timers, index and memory of `43_keys_timers_memory.md`: the key skips and the key wait, the moves
of the timers and of `I`, and the loads and stores with their one range check. -/

namespace Sys2Proof.Machine

/-! ## Keys (R180–R182, R184) -/

theorem pressed_eq_true {key : Option Key} {b : Byte} :
    pressed key b = true ↔ ∃ k, key = some k ∧ k.val = b.toNat := by
  cases key <;> simp [pressed]

theorem pressed_eq_false {key : Option Key} {b : Byte} :
    pressed key b = false ↔ ∀ k, key = some k → k.val ≠ b.toNat := by
  cases key <;> simp [pressed]

/-- A skip that is taken moves `PC` by 4. -/
theorem State.skipIf_true (s : State) : s.skipIf true = { s with pc := s.pc + 4 } := by
  simp [State.skipIf_eq, BitVec.add_assoc]

/-- Settles O50: the two skips on whether the held key is the whole byte `VX`. -/
theorem keySkipsCompareTheWholeByte : Obligations.KeySkipsCompareTheWholeByte := by
  intro x s
  constructor
  · intro hheld
    have hpressed : pressed s.key (s.reg x) = true := pressed_eq_true.mpr hheld
    simp only [exec, execSkp, execSknp, hpressed]
    exact ⟨congrArg _ s.skipIf_true, rfl⟩
  · intro hnot
    have hpressed : pressed s.key (s.reg x) = false := pressed_eq_false.mpr hnot
    simp only [exec, execSkp, execSknp, hpressed]
    exact ⟨rfl, congrArg _ s.skipIf_true⟩

theorem exec_ldVxK_of_no_key {s : State} (hk : s.key = none) (x : Reg) : exec (.ldVxK x) s = .next s := by
  simp only [exec, execLdVxK, hk]

theorem exec_ldVxK_of_key {s : State} {k : Key} (hk : s.key = some k) (x : Reg) :
    exec (.ldVxK x) s = .next (s.setReg x (keyByte k)).advance := by
  simp only [exec, execLdVxK, hk]

/-- Settles O52: the instruction holds without a key, and else writes the key's number to one register. -/
theorem keyWaitHoldsUntilAKeyIsHeld : Obligations.KeyWaitHoldsUntilAKeyIsHeld := by
  refine fun x s => ⟨fun hk => exec_ldVxK_of_no_key hk x, fun k hk => ?_⟩
  obtain ⟨t, hexec, hx, hframe⟩ := exec_of_setReg (exec_ldVxK_of_key hk x)
  exact ⟨t, hexec, hx ▸ keyByte_toNat k, hframe⟩

/-! ## Timers (R183, R185, R186) -/

/-- Settles O51: one register written with `DT`, and each timer written with `VX`. -/
theorem timerMoves : Obligations.TimerMoves :=
  fun _ _ => ⟨exec_of_setReg rfl, rfl, rfl⟩

/-! ## Index (R187, R188) -/

theorem addIndex_toNat (i : Word) (b : Byte) : (addIndex i b).toNat = (i.toNat + b.toNat) % 65536 :=
  BitVec.toNat_ofNat ..

/-- Settles O53: `I` receives the sum modulo 2^16, or the exact glyph address, and only `I` and `PC` are written. -/
theorem indexArithmetic : Obligations.IndexArithmetic :=
  fun x s => ⟨⟨_, rfl, addIndex_toNat s.i (s.reg x), rfl⟩, ⟨_, rfl, glyphAddress_toNat (s.reg x), rfl⟩⟩

/-! ## The range check of a memory access (R64, D7)

An access to the `n + 1` bytes from `base` is stated by its last address, `base + n`. -/

theorem firstBeyond_of_last_le {base n : Nat} (h : base + n ≤ 0xFFF) : firstBeyond base (n + 1) = none :=
  firstBeyond_eq_none.mpr (by omega)

theorem firstBeyond_of_last_gt {base n : Nat} (h : 0xFFF < base + n) :
    firstBeyond base (n + 1) = some (max base 0x1000) :=
  firstBeyond_eq_some.mpr ⟨n.succ_pos, by omega, rfl⟩

section Access

variable {x : Reg} {s : State}

theorem exec_ldBVx_of_le (h : s.i.toNat ≤ 0xFFD) :
    exec (.ldBVx x) s = .next (s.writeBytes s.i.toNat (bcdDigits (s.reg x))).advance := by
  have hnone : firstBeyond s.i.toNat 3 = none := firstBeyond_of_last_le (n := 2) (by omega)
  simp only [exec, execLdBVx, hnone]

theorem exec_ldBVx_of_gt (h : 0xFFD < s.i.toNat) :
    exec (.ldBVx x) s = .fault (.memOutOfRange (max s.i.toNat 0x1000)) := by
  have hsome : firstBeyond s.i.toNat 3 = some (max s.i.toNat 0x1000) := firstBeyond_of_last_gt (n := 2) (by omega)
  simp only [exec, execLdBVx, hsome]

theorem exec_ldMemVx_of_le (h : s.i.toNat + x.val ≤ 0xFFF) :
    exec (.ldMemVx x) s = .next (s.writeBytes s.i.toNat (s.regsUpTo x)).advance := by
  simp only [exec, execLdMemVx, firstBeyond_of_last_le h]

theorem exec_ldMemVx_of_gt (h : 0xFFF < s.i.toNat + x.val) :
    exec (.ldMemVx x) s = .fault (.memOutOfRange (max s.i.toNat 0x1000)) := by
  simp only [exec, execLdMemVx, firstBeyond_of_last_gt h]

theorem exec_ldVxMem_of_le (h : s.i.toNat + x.val ≤ 0xFFF) :
    exec (.ldVxMem x) s = .next (s.loadRegs x s.i.toNat).advance := by
  simp only [exec, execLdVxMem, firstBeyond_of_last_le h]

theorem exec_ldVxMem_of_gt (h : 0xFFF < s.i.toNat + x.val) :
    exec (.ldVxMem x) s = .fault (.memOutOfRange (max s.i.toNat 0x1000)) := by
  simp only [exec, execLdVxMem, firstBeyond_of_last_gt h]

end Access

/-! ## Stores and loads (R189–R191) -/

/-- A store of any bytes moves nothing but memory and `PC`; `I` stays (D20). -/
theorem State.advance_writeBytes_eq (s : State) (base : Nat) (bs : List Byte) :
    (s.writeBytes base bs).advance = { s with mem := (s.writeBytes base bs).advance.mem, pc := s.pc + 2 } := by
  rw [State.writeBytes_eq]
  rfl

/-- A load of registers moves nothing but the register file and `PC`; `I` stays (D20). -/
theorem State.advance_loadRegs_eq (s : State) (x : Reg) (base : Nat) :
    (s.loadRegs x base).advance = { s with v := (s.loadRegs x base).advance.v, pc := s.pc + 2 } := by
  rw [State.loadRegs_eq]
  rfl

/-- Settles O54: inside memory the three digits are stored at `I` and no other byte; beyond it the access faults. -/
theorem storeDecimalDigits : Obligations.StoreDecimalDigits := by
  refine fun x s => ⟨fun hle => ?_, exec_ldBVx_of_gt⟩
  have hexec := exec_ldBVx_of_le (x := x) hle
  exact ⟨_, hexec, exec_ldBVx_readByte_stored hexec (k := 0) (by decide),
    exec_ldBVx_readByte_stored hexec (k := 1) (by decide), exec_ldBVx_readByte_stored hexec (k := 2) (by decide),
    fun a ha => exec_ldBVx_readByte_kept hexec ha, s.advance_writeBytes_eq _ _⟩

/-- Settles O55: inside memory `V0..VX` are stored at `I` and no other byte; beyond it the access faults. -/
theorem storeRegisters : Obligations.StoreRegisters := by
  refine fun x s => ⟨fun hle => ?_, exec_ldMemVx_of_gt⟩
  have hexec := exec_ldMemVx_of_le hle
  exact ⟨_, hexec, fun k hk => exec_ldMemVx_readByte_stored hexec hk,
    fun a ha => exec_ldMemVx_readByte_kept hexec ha, s.advance_writeBytes_eq _ _⟩

/-- Settles O56: inside memory each of `V0..VX` receives its byte and the registers above `VX` none; beyond it the
access faults. -/
theorem loadRegisters : Obligations.LoadRegisters := by
  refine fun x s => ⟨fun hle => ⟨_, exec_ldVxMem_of_le hle, fun k hk => ?_, fun k hk => ?_,
    s.advance_loadRegs_eq _ _⟩, exec_ldVxMem_of_gt⟩
  · rw [State.reg_advance, State.reg_loadRegs, if_pos hk]
  · rw [State.reg_advance, State.reg_loadRegs, if_neg (not_le.mpr hk)]

end Sys2Proof.Machine
end

section
/-! PROOF. The exceptions and the schedule of `60_exceptions.md`: the cadence checks, what an instruction can answer
besides a next state, the order of an iteration, and the step of a placed word. -/

namespace Sys2Proof.Machine

/-! ## Cadence checks (R229, R233) -/

/-- Settles O14: the two outcomes of a check. -/
theorem cadenceCheckFiresOncePerPeriod : Obligations.CadenceCheckFiresOncePerPeriod := by
  intro clk now P
  by_cases h : (P : Int) ≤ now - clk
  · rw [ready_of_le h]
    exact ⟨iff_of_true rfl h, fun _ => rfl, fun hlt => absurd h hlt.not_ge⟩
  · rw [ready_of_lt (not_le.mp h)]
    exact ⟨iff_of_false Bool.false_ne_true h, fun hge => absurd hge h, fun _ => rfl⟩

section CadenceChecks

variable {clk now : Int} {P : Nat}

theorem cadenceChecks_cons_of_le (h : (P : Int) ≤ now - clk) (later : List Int) :
    cadenceChecks clk P (now :: later) =
      ((cadenceChecks (clk + P) P later).1 + 1, (cadenceChecks (clk + P) P later).2) := by
  simp only [cadenceChecks, ready_of_le h, if_true, Nat.add_comm 1]

theorem cadenceChecks_cons_of_lt (h : now - clk < (P : Int)) (later : List Int) :
    cadenceChecks clk P (now :: later) = cadenceChecks clk P later := by
  simp [cadenceChecks, ready_of_lt h]

theorem cadenceChecks_fires_le_length (clk : Int) (P : Nat) (times : List Int) :
    (cadenceChecks clk P times).1 ≤ times.length := by
  induction times generalizing clk with
  | nil => exact le_rfl
  | cons now later ih =>
    by_cases h : (P : Int) ≤ now - clk
    · rw [cadenceChecks_cons_of_le h]
      exact Nat.succ_le_succ (ih _)
    · rw [cadenceChecks_cons_of_lt (not_le.mp h)]
      exact (ih _).trans (Nat.le_succ _)

/-- The marker moves one period a fire, so no elapsed time is lost. -/
theorem cadenceChecks_marker (clk : Int) (P : Nat) (times : List Int) :
    (cadenceChecks clk P times).2 = clk + (((cadenceChecks clk P times).1 * P : Nat) : Int) := by
  induction times generalizing clk with
  | nil => simp [cadenceChecks]
  | cons now later ih =>
    by_cases h : (P : Int) ≤ now - clk
    · rw [cadenceChecks_cons_of_le h, ih]
      push_cast
      ring
    · rw [cadenceChecks_cons_of_lt (not_le.mp h), ih]

/-- Where the `j`-th check has `j + 1` periods behind it, every check fires. -/
theorem cadenceChecks_all_fire {times : List Int}
    (h : ∀ j (hj : j < times.length), (P : Int) ≤ times[j] - (clk + ((j * P : Nat) : Int))) :
    (cadenceChecks clk P times).1 = times.length := by
  induction times generalizing clk with
  | nil => rfl
  | cons now later ih =>
    have hfirst : (P : Int) ≤ now - clk := by simpa using h 0 (Nat.succ_pos _)
    rw [cadenceChecks_cons_of_le hfirst, List.length_cons, ih]
    intro j hj
    have hnext := h (j + 1) (Nat.succ_lt_succ hj)
    rw [List.getElem_cons_succ, Nat.succ_mul] at hnext
    omega

end CadenceChecks

/-- Settles O15: the three claims by induction on the check times, and the source's example. -/
theorem cadenceBacklogIsNeverDiscarded : Obligations.CadenceBacklogIsNeverDiscarded :=
  ⟨fun clk P times => ⟨cadenceChecks_fires_le_length clk P times, cadenceChecks_marker clk P times,
    cadenceChecks_all_fire⟩, by decide⟩

/-! ## The faults and the refusal of an instruction (R222, R250) -/

/-- The length of the byte range that an instruction checks at `I` (R64); 0 for those that access no memory. -/
def checkedLength : Instr → Nat
  | .drw _ _ n => n.val
  | .ldBVx _ => 3
  | .ldMemVx x | .ldVxMem x => x.val + 1
  | _ => 0

theorem checkedLength_pos {i : Instr} (h : 0 < checkedLength i) :
    (∃ x y m, i = .drw x y m ∧ checkedLength i = m.val) ∨ (∃ x, i = .ldBVx x ∧ checkedLength i = 3) ∨
      (∃ x, i = .ldMemVx x ∧ checkedLength i = x.val + 1) ∨ ∃ x, i = .ldVxMem x ∧ checkedLength i = x.val + 1 := by
  cases i
  case drw x y n => exact .inl ⟨x, y, n, rfl, rfl⟩
  case ldBVx x => exact .inr (.inl ⟨x, rfl, rfl⟩)
  case ldMemVx x => exact .inr (.inr (.inl ⟨x, rfl, rfl⟩))
  case ldVxMem x => exact .inr (.inr (.inr ⟨x, rfl, rfl⟩))
  all_goals cases h

/-- What an instruction raises in the state `s`, and when (R222). -/
inductive Raises (s : State) : Instr → Fault → Prop
  | stackOverflow (nnn : Addr12) (h : s.sp.val = 16) : Raises s (.call nnn) (.stackOverflow s.pc)
  | stackUnderflow (h : s.sp.val = 0) : Raises s .ret (.stackUnderflow s.pc)
  | memOutOfRange (i : Instr) (hpos : 0 < checkedLength i) (h : 0xFFF < s.i.toNat + checkedLength i - 1) :
      Raises s i (.memOutOfRange (max s.i.toNat 0x1000))
  | drawOutOfRange (x y : Reg) (n : Fin 16) (p : Nat × Nat) (hbit : s.spriteBit x y n p.1 p.2 = true)
      (hoff : 64 ≤ p.1 ∨ 32 ≤ p.2) : Raises s (.drw x y n) (.drawOutOfRange p.1 p.2)

/-- What executing `i` in `s` can answer: a next state, a fault that `i` raises, or, for `CXNN` alone, the refusal of a
prescribed byte above its mask. -/
inductive Answers (i : Instr) (s : State) : Result → Prop
  | next (t : State) : Answers i s (.next t)
  | fault {f : Fault} (h : Raises s i f) : Answers i s (.fault f)
  | refused {x : Reg} {nn b : Byte} (hi : i = .rnd x nn) (hr : s.rnd = some b) (h : nn < b) :
      Answers i s (.refused .hostRandomAboveMask)

theorem exec_drw_answers (x y : Reg) (n : Fin 16) (s : State) : Answers (.drw x y n) s (exec (.drw x y n) s) := by
  by_cases hmem : n.val = 0 ∨ s.i.toNat + n.val - 1 ≤ 0xFFF
  · cases hp : (s.drawnPixels x y n).find? offScreen with
    | none =>
      rw [exec_drw_of_onScreen hmem fun p h =>
        offScreen_eq_false.mp (by simpa using List.find?_eq_none.mp hp p h)]
      exact .next _
    | some p =>
      rw [exec_drw_of_pixel_offScreen hmem hp]
      exact .fault (.drawOutOfRange x y n p (State.mem_drawnPixels.mp (List.mem_of_find?_eq_some hp))
        (offScreen_eq_true.mp (List.find?_some hp)))
  · have hpos : 0 < n.val := by omega
    have hbeyond : 0xFFF < s.i.toNat + n.val - 1 := by omega
    rw [exec_drw_of_memory_beyond hpos hbeyond]
    exact .fault (.memOutOfRange _ hpos hbeyond)

/-- Of the instructions with more than one outcome each is settled by its own check; the others complete. -/
theorem exec_answers (i : Instr) (s : State) : Answers i s (exec i s) := by
  cases i
  case call nnn =>
    by_cases h : s.sp.val < 16
    · rw [exec_call_of_lt h]
      exact .next _
    · have hfull : s.sp.val = 16 := by omega
      rw [exec_call_of_full hfull]
      exact .fault (.stackOverflow nnn hfull)
  case ret =>
    by_cases h : s.sp.val = 0
    · rw [exec_ret_of_empty h]
      exact .fault (.stackUnderflow h)
    · rw [exec_ret_of_pos h]
      exact .next _
  case rnd x nn =>
    cases hr : s.rnd with
    | none =>
      rw [exec_rnd_of_none hr]
      exact .next _
    | some b =>
      by_cases hle : b ≤ nn
      · rw [exec_rnd_of_le hr hle]
        exact .next _
      · have hgt : nn < b := BitVec.not_le.mp hle
        rw [exec_rnd_of_gt hr hgt]
        exact .refused rfl hr hgt
  case drw x y n => exact exec_drw_answers x y n s
  case ldVxK x =>
    cases hk : s.key with
    | none =>
      rw [exec_ldVxK_of_no_key hk]
      exact .next _
    | some k =>
      rw [exec_ldVxK_of_key hk]
      exact .next _
  case ldBVx x =>
    obtain h | h := le_or_gt s.i.toNat 0xFFD
    · rw [exec_ldBVx_of_le h]
      exact .next _
    · rw [exec_ldBVx_of_gt h]
      exact .fault (.memOutOfRange _ (Nat.succ_pos _) (Nat.add_lt_add_right h 2))
  case ldMemVx x =>
    obtain h | h := le_or_gt (s.i.toNat + x.val) 0xFFF
    · rw [exec_ldMemVx_of_le h]
      exact .next _
    · rw [exec_ldMemVx_of_gt h]
      exact .fault (.memOutOfRange _ (Nat.succ_pos _) h)
  case ldVxMem x =>
    obtain h | h := le_or_gt (s.i.toNat + x.val) 0xFFF
    · rw [exec_ldVxMem_of_le h]
      exact .next _
    · rw [exec_ldVxMem_of_gt h]
      exact .fault (.memOutOfRange _ (Nat.succ_pos _) h)
  all_goals exact .next _

/-- Settles O26: the faults that an instruction raises, one by one. -/
theorem onlyListedInstructionsFault : Obligations.OnlyListedInstructionsFault := by
  refine ⟨fun i s f h => ?_, fun _ _ _ _ => ⟨rfl, rfl, rfl, rfl, rfl⟩⟩
  have hraises : Raises s i f := by
    cases h ▸ exec_answers i s
    assumption
  cases hraises with
  | stackOverflow nnn hsp => exact .inl ⟨nnn, rfl, hsp, rfl⟩
  | stackUnderflow hsp => exact .inr (.inl ⟨rfl, hsp, rfl⟩)
  | memOutOfRange _ hpos hbeyond => exact .inr (.inr (.inl ⟨_, hpos, hbeyond, rfl, checkedLength_pos hpos⟩))
  | drawOutOfRange x y n p hbit hoff => exact .inr (.inr (.inr ⟨x, y, n, p.1, p.2, rfl, hbit, hoff, rfl⟩))

/-- Settles O27: the one refusal among the answers. -/
theorem onlyABrokenRandomDutyIsRefused : Obligations.OnlyABrokenRandomDutyIsRefused := by
  intro i s r h
  cases h ▸ exec_answers i s with
  | refused hi hr hgt => exact ⟨_, _, _, hi, hr, hgt, rfl⟩

/-! ## The step by the run state, the input's time and the cadence (R230, R236, R237) -/

/-- Settles O12: the run state and the input's time are looked at before anything else. -/
theorem stoppedRunsAndBackwardTimeHaveNoStep : Obligations.StoppedRunsAndBackwardTimeHaveNoStep := by
  refine fun s => ⟨fun f hr => ?_, fun hr => ?_, fun hr hback => ?_⟩
  · rw [step, hr]
  · rw [step, hr]
  · rw [step, hr]
    exact if_pos hback

theorem State.accept_instrFires_iff {s : State} {inp : HostInput} :
    (s.accept inp).instrFires = true ↔ s.clkI + ((s.cfg.tInstr0 + s.offset : Nat) : Int) ≤ inp.now :=
  (State.instrFires_iff _).trans le_sub_iff_add_le'

theorem State.checkInstr_of_not_fires {s : State} (h : s.instrFires = false) : s.checkInstr = s := by
  have hlt : s.now - s.clkI < (s.instrPeriod : Int) := by
    rw [← not_le]
    exact fun hle => by simp [s.instrFires_iff.mpr hle] at h
  rw [State.checkInstr, ready_of_lt hlt]

section Iterate

variable {s : State} {inp : HostInput}

theorem iterate_of_not_fires (hf : (s.accept inp).instrFires = false) :
    iterate s inp = .next ((s.accept inp).finish inp) := by
  simp [iterate, hf, State.checkInstr_of_not_fires hf]

theorem iterate_of_next {u : State} (hf : (s.accept inp).instrFires = true)
    (he : executeOne (s.accept inp).checkInstr = .next u) : iterate s inp = .next (u.finish inp) := by
  simp only [iterate, hf, he, if_true]

theorem iterate_of_refused {r : Refusal} (hf : (s.accept inp).instrFires = true)
    (he : executeOne (s.accept inp).checkInstr = .refused r) : iterate s inp = .refused r := by
  simp only [iterate, hf, he, if_true]

end Iterate

/-- Settles O11: the check that does not fire leaves the state as accepted. -/
theorem noInstructionUntilTheCadenceFires : Obligations.NoInstructionUntilTheCadenceFires := by
  intro s hr hn hbefore
  have hf : (s.accept s.nextInput).instrFires = false := by
    rw [← Bool.not_eq_true, State.accept_instrFires_iff]
    exact hbefore.not_ge
  rw [step_running hr hn, iterate_of_not_fires hf]

/-- Settles O8: the one instruction is the decoded one, and each of its answers ends the iteration its own way. -/
theorem stepRunsTheDecodedInstruction : Obligations.StepRunsTheDecodedInstruction := by
  intro s i hr hn hfires hpc hi
  have hf := State.accept_instrFires hfires
  have hc := State.checkInstr_of_fires hf
  have hone : executeOne (s.accept s.nextInput).checkInstr = exec i (s.accept s.nextInput).checkInstr := by
    rw [← hi]
    exact executeOne_of_word hpc (wordOfBytes_high _ _).symm (wordOfBytes_low _ _).symm
  have hexec := hone.trans (congrArg (exec i) hc)
  rw [step_running hr hn]
  split
  next u hu => exact iterate_of_next hf (hexec.trans hu)
  next f hu =>
    rw [iterate_of_fault hf (hexec.trans hu), hc]
    rfl
  next r hu => exact iterate_of_refused hf (hexec.trans hu)

/-! ## The rest of an iteration (R231, R232, R236, R238, R242) -/

theorem countDown_eq (b : Byte) : countDown b = if b ≠ 0 then b - 1 else b := by
  by_cases h : b = 0
  · rw [h]
    rfl
  · rw [countDown, if_neg h, if_pos h]
    bv_omega

/-- Whether the timer cadence fires (R231). -/
def State.timerFires (s : State) : Bool := decide (s.clkT + (s.cfg.tTimer : Int) ≤ s.now)

/-- The timer phase, field by field. -/
theorem State.timerPhase_eq_ite (s : State) :
    s.timerPhase = { s with
      clkT := if s.timerFires then s.clkT + (s.cfg.tTimer : Int) else s.clkT
      audio := if s.timerFires then decide (s.st ≠ 0) else s.audio
      dt := if s.timerFires ∧ s.dt ≠ 0 then s.dt - 1 else s.dt
      st := if s.timerFires ∧ s.st ≠ 0 then s.st - 1 else s.st
      outputs := s.outputs ++ if s.timerFires then [.audioGate (decide (s.st ≠ 0))] else [] } := by
  have hgate : (s.st != 0) = decide (s.st ≠ 0) := Bool.eq_iff_iff.mpr (by simp)
  by_cases h : s.clkT + (s.cfg.tTimer : Int) ≤ s.now
  · have hf : s.timerFires = true := decide_eq_true h
    rw [State.timerPhase_of_tick (le_sub_iff_add_le'.mpr h), State.timerTick]
    simp only [hf, if_true, true_and, hgate, countDown_eq]
    rfl
  · have hf : s.timerFires = false := decide_eq_false h
    rw [State.timerPhase_of_no_tick (sub_lt_iff_lt_add'.mpr (not_le.mp h))]
    simp [hf]

theorem State.framePhase_outputs (s : State) :
    s.framePhase.outputs = s.outputs ++ if s.drawn then [.frame s.fb.bytes 64 32] else [] := by
  unfold State.framePhase
  split <;> simp

theorem State.pollPhase_outputs (s : State) (inp : HostInput) :
    (s.pollPhase inp).outputs = s.outputs ++ if inp.quit then [.terminated] else [] := by
  unfold State.pollPhase State.quitIf
  split <;> simp

/-- The outputs of the three phases in their order. -/
theorem State.finish_outputs (s : State) (inp : HostInput) :
    (s.finish inp).outputs = s.outputs ++ (if s.timerFires then [.audioGate (decide (s.st ≠ 0))] else []) ++
      (if s.drawn then [.frame s.fb.bytes 64 32] else []) ++ if inp.quit then [.terminated] else [] := by
  rw [State.finish, State.pollPhase_outputs, State.framePhase_outputs, State.timerPhase_eq_ite]

/-- Settles O13: what the three phases write, and their outputs. -/
theorem restOfIterationIsTickFramePoll : Obligations.RestOfIterationIsTickFramePoll := by
  intro s inp
  rw [State.finish_eq, State.finish_outputs, State.timerPhase_eq_ite]
  rfl

/-! ## The step that ends in no fault (R234, R236, R238, R242) -/

/-- What the rest of an iteration that began in `s` finds: the run state and the offset as before, `drawn` set by the
instruction if it drew, and no frame output. -/
structure State.BeforeFinish (s u : State) : Prop where
  run : u.run = .running
  offset : u.offset = s.offset
  cfg : u.cfg = s.cfg
  drawn : u.drawn = true ↔ s.drawn = true ∨
    (s.clkI + ((s.cfg.tInstr0 + s.offset : Nat) : Int) ≤ s.nextInput.now ∧
      mayDraw (decodeWord s.cfg.family0 (s.readByte s.pc.toNat ++ s.readByte (s.pc.toNat + 1))) = true)
  noFrame : u.outputs.filter isFrame = []

/-- A step ends with the rest of its iteration, or with a fault taken in the state that the cadence check left. -/
theorem step_finish_or_fault {s t : State} (h : step s = .next t) :
    (∃ u, s.BeforeFinish u ∧ t = u.finish s.nextInput) ∨
      ∃ f, (s.accept s.nextInput).instrFires = true ∧ t = (s.accept s.nextInput).checkInstr.takeFault f := by
  obtain ⟨hr, -, hcases⟩ := step_cases h
  obtain ⟨hf, rfl⟩ | ⟨hf, ⟨u, hu, rfl⟩ | ⟨f, -, rfl⟩⟩ := hcases
  · refine .inl ⟨(s.accept s.nextInput).checkInstr, ⟨hr, rfl, rfl, ?_, rfl⟩, rfl⟩
    rw [← State.accept_instrFires_iff, hf]
    exact (or_iff_left fun h => Bool.false_ne_true h.1).symm
  · obtain ⟨-, hu⟩ := executeOne_next hu
    have hsame := exec_sameRunLoop hu
    obtain ⟨hdrawn, houtputs⟩ := exec_drawn_outputs hu
    refine .inl ⟨u, ⟨hsame.run.trans hr, hsame.offset, hsame.cfg, ?_, ?_⟩, rfl⟩
    · rw [← State.accept_instrFires_iff, hf, hdrawn, Bool.or_eq_true]
      exact or_congr_right (and_iff_right rfl).symm
    · obtain ho | ⟨code, pc, w, ho⟩ := houtputs <;> rw [ho] <;> rfl
  · exact .inr ⟨f, hf, rfl⟩

/-- A step that does not end faulted ends with the rest of its iteration. -/
theorem step_finish {s t : State} (h : step s = .next t) (hrun : ∀ f, t.run ≠ .faulted f) :
    ∃ u, s.BeforeFinish u ∧ t = u.finish s.nextInput := by
  obtain hfinish | ⟨f, -, rfl⟩ := step_finish_or_fault h
  · exact hfinish
  · exact absurd rfl (hrun f)

theorem State.BeforeFinish.run_finish {s u : State} (hu : s.BeforeFinish u) (inp : HostInput) :
    (u.finish inp).run = if inp.quit then .terminated else .running := by
  rw [State.finish_eq, hu.run]

/-- Settles O17: the poll ends every iteration without a fault, and its quit alone terminates. -/
theorem quitTerminatesAtTheEndOfTheIteration : Obligations.QuitTerminatesAtTheEndOfTheIteration := by
  intro s t h
  have hquit (hrun : ∀ f, t.run ≠ .faulted f) : t.run = .terminated ↔ s.nextInput.quit = true := by
    obtain ⟨u, hu, rfl⟩ := step_finish h hrun
    rw [hu.run_finish]
    cases s.nextInput.quit <;> simp
  refine ⟨hquit, fun hterm => ⟨(hquit fun f => by simp [hterm]).mp hterm, ?_⟩⟩
  exact (stoppedRunsAndBackwardTimeHaveNoStep t).2.1 hterm

/-- Settles O18: the poll comes after the instruction, which leaves the offset alone. -/
theorem pollSetsKeyAndOffsetAfterTheInstruction : Obligations.PollSetsKeyAndOffsetAfterTheInstruction := by
  intro s t h hrun
  obtain ⟨u, hu, rfl⟩ := step_finish h hrun
  rw [State.finish_eq, hu.offset, hu.cfg]
  exact ⟨rfl, rfl, rfl⟩

/-- Settles O20: the fault is taken in the state that the accepted inputs and the firing check left; a step that takes
none ends running or terminated. -/
theorem faultsArePrecise : Obligations.FaultsArePrecise := by
  intro s t f h hrun
  obtain ⟨u, hu, rfl⟩ | ⟨f', hf, rfl⟩ := step_finish_or_fault h
  · rw [hu.run_finish] at hrun
    split at hrun <;> cases hrun
  · cases hrun
    rw [State.checkInstr_of_fires hf]
    simp [State.takeFault, State.accept]

/-! ## The frame (R30, R238) -/

/-- The rest of an iteration hands over one frame where `drawn` is set, and none else. -/
theorem State.frames_finish {u : State} (h : u.outputs.filter isFrame = []) (inp : HostInput) :
    (u.finish inp).outputs.filter isFrame = if u.drawn then [.frame u.fb.bytes 64 32] else [] := by
  simp [State.finish_outputs, h, apply_ite (List.filter isFrame), List.filter_singleton, isFrame]

theorem State.frame_mem_finish {u : State} (h : u.outputs.filter isFrame = []) {inp : HostInput}
    {bytes : Vector Byte 2048} {width height : Nat} : Output.frame bytes width height ∈ (u.finish inp).outputs ↔
      u.drawn = true ∧ bytes = u.fb.bytes ∧ width = 64 ∧ height = 32 := by
  have hfilter : Output.frame bytes width height ∈ (u.finish inp).outputs ↔
      Output.frame bytes width height ∈ (u.finish inp).outputs.filter isFrame :=
    (List.mem_filter.trans (and_iff_left rfl)).symm
  rw [hfilter, State.frames_finish h]
  cases u.drawn <;> simp

/-- Settles O19: the frames of a finished iteration are counted by `drawn`; the byte view is row-major. -/
theorem frameIsHandedOverOncePerIteration : Obligations.FrameIsHandedOverOncePerIteration := by
  refine ⟨fun s t h hrun => ?_, fun fb x y hx hy => ?_⟩
  · obtain ⟨u, hu, rfl⟩ := step_finish h hrun
    have hdrawn : (u.finish s.nextInput).drawn = false := by rw [State.finish_eq]
    have hfb : (u.finish s.nextInput).fb = u.fb := by rw [State.finish_eq]
    refine ⟨hdrawn, ?_, ?_, fun bytes w h hmem => ?_⟩
    · rw [hfb, State.frame_mem_finish hu.noFrame, ← hu.drawn]
      exact and_iff_left ⟨rfl, rfl, rfl⟩
    · rw [State.frames_finish hu.noFrame]
      cases u.drawn <;> simp
    · rw [hfb]
      exact ((State.frame_mem_finish hu.noFrame).mp hmem).2
  · have hcol : (y * 64 + x) % 64 = x := by omega
    have hrow : (y * 64 + x) / 64 = y := by omega
    rw [Framebuffer.bytes_getElem, hcol, hrow]

/-! ## The placed word (R60, R236, log 8) -/

/-- The address where a word is placed: `PC`, or `0x200` where `PC` lies outside memory. -/
def State.placePc (s : State) : Word := if 0xFFE < s.pc.toNat then 0x200 else s.pc

theorem State.placePc_le (s : State) : s.placePc.toNat ≤ 0xFFE := by
  unfold State.placePc
  split
  · decide
  · omega

/-- The state with the bytes of `w` where the next step fetches. -/
def State.storeFetchWord (s : State) (w : Word) : State := s.writeBytes s.placePc.toNat (bytesOfWord w)

theorem State.storeFetchWord_readByte_high (s : State) (w : Word) :
    (s.storeFetchWord w).readByte s.placePc.toNat = w.extractLsb' 8 8 :=
  State.readByte_writeBytes_inside (bs := bytesOfWord w) (k := 0) (Nat.succ_pos _)

theorem State.storeFetchWord_readByte_low (s : State) (w : Word) :
    (s.storeFetchWord w).readByte (s.placePc.toNat + 1) = w.extractLsb' 0 8 :=
  State.readByte_writeBytes_inside (bs := bytesOfWord w) (k := 1) (Nat.lt_succ_self _)

theorem State.storeFetchWord_readByte_kept (s : State) (w : Word) {a : Nat} (h0 : a ≠ s.placePc.toNat)
    (h1 : a ≠ s.placePc.toNat + 1) : (s.storeFetchWord w).readByte a = s.readByte a :=
  State.readByte_writeBytes_outside (by simp only [bytesOfWord, List.length_cons, List.length_nil]; omega)

/-- The word read back from where it was stored (R60). -/
theorem State.storeFetchWord_readByte_append (s : State) (w : Word) :
    (s.storeFetchWord w).readByte s.placePc.toNat ++ (s.storeFetchWord w).readByte (s.placePc.toNat + 1) = w := by
  rw [State.storeFetchWord_readByte_high, State.storeFetchWord_readByte_low]
  exact wordOfBytes_bytesOfWord w

/-- Placing a word writes its two bytes, `PC`, the run state and the inputs to come alone. -/
theorem State.withFetchWord_eq (s : State) (w : Word) :
    s.withFetchWord 16 w.toNat = { s.storeFetchWord w with
      pc := s.placePc, run := .running, host := s.firingInput :: s.host } := by
  have hw : BitVec.ofNat 16 (w.toNat % 2 ^ 16) = w := by
    rw [Nat.mod_eq_of_lt w.isLt, BitVec.ofNat_toNat, BitVec.setWidth_eq]
  have hpc : (if 0xFFE < s.pc.toNat then s.setPc 0x200 else s) = s.setPc s.placePc := by
    unfold State.placePc
    split <;> rfl
  rw [State.withFetchWord, hw, State.placeFetchWord, hpc]
  rfl

/-- Settles O59: the placed state meets the premises under which a step runs its decoded instruction. -/
theorem placedWordIsRunByTheNextStep : Obligations.PlacedWordIsRunByTheNextStep := by
  intro s w
  rw [State.withFetchWord_eq]
  refine ⟨{ s.storeFetchWord w with
      pc := s.placePc, run := .running, now := s.firingInput.now, rnd := none, outputs := []
      clkI := s.clkI + ((s.cfg.tInstr0 + s.offset : Nat) : Int) }, rfl, rfl, s.storeFetchWord_readByte_high w,
    s.storeFetchWord_readByte_low w, fun _ => s.storeFetchWord_readByte_kept w, ?_⟩
  exact stepRunsTheDecodedInstruction _ _ rfl (le_max_left _ _) (le_max_right _ _) s.placePc_le
    (congrArg (decodeWord s.cfg.family0) (s.storeFetchWord_readByte_append w))

end Sys2Proof.Machine
end

section
/-! PROOF. The reset and the hazards of `70_reset_and_hazards.md`: the image a reset takes or refuses, the invariant at
reset, and what of the state a program can see. -/

namespace Sys2Proof.Machine

/-! ## The image of a reset (R57, R270) -/

theorem bootReset_of_gt {rom : List Byte} (h : 3584 < rom.length) (cfg : Config) (t0 : Int) :
    bootReset rom cfg t0 = .refused .romTooLong := by
  rw [bootReset, if_pos h]

/-- A reset that answers a state has taken an image that fits. -/
theorem bootReset_next {rom : List Byte} {cfg : Config} {t0 : Int} {s : State} (h : bootReset rom cfg t0 = .next s) :
    rom.length ≤ 3584 ∧ s = bootState rom cfg t0 := by
  obtain hle | hgt := le_or_gt rom.length 3584
  · rw [bootReset_of_le hle] at h
    cases h
    exact ⟨hle, rfl⟩
  · rw [bootReset_of_gt hgt] at h
    cases h

/-- Settles O7: the empty image stores nothing, and the length check comes before any store. -/
theorem resetIsTheEmptyImageAndLongImagesAreRefused : Obligations.ResetIsTheEmptyImageAndLongImagesAreRefused :=
  ⟨bootReset_of_le (Nat.zero_le _) Config.default 0, fun _ cfg t0 h => bootReset_of_gt h cfg t0⟩

/-! ## The invariant at reset (R6, R38, R270) -/

theorem State.resetWith_inv {cfg : Config} (h : cfg.valid) (t0 : Int) : (State.resetWith cfg t0).Inv where
  memory := Memory.wf_nil cfg.font
  offset := Nat.zero_le _
  clkI := le_rfl
  clkT := le_rfl
  pc := by simp [State.resetWith]
  stack k := by simp [State.resetWith_stackEntry]
  periods := h

/-- A run of stores inside memory keeps the invariant. -/
theorem State.Inv.writeBytes {s : State} (hs : s.Inv) {base : Nat} {bs : List Byte}
    (h : base + bs.length ≤ 0x1000) : (s.writeBytes base bs).Inv := by
  have hmem := s.wf_writeBytes base bs hs.memory h
  rw [State.writeBytes_eq]
  exact { hs with memory := hmem }

/-- Settles O22: the reset state meets the invariant, and an image that fits is a run of stores inside memory. -/
theorem bootMeetsTheInvariant : Obligations.BootMeetsTheInvariant := by
  intro rom cfg t0 s hvalid h
  obtain ⟨hlen, rfl⟩ := bootReset_next h
  exact (State.resetWith_inv hvalid t0).writeBytes (by omega)

/-! ## What a program can see (R37, R288)

`State.view` sets everything a program cannot see to a fixed value. Two states have the same view exactly when they
agree on what a program can see, and an instruction's result in a state is, up to the view, its result in the view. -/

/-- The state with time, markers, offset, timing parameters, drawn flag, gate, run state, inputs to come and outputs at
fixed values. -/
def State.view (s : State) : State :=
  { s with
    drawn := false, clkI := 0, clkT := 0, offset := 0, audio := false, run := .running
    cfg := { Config.default with font := s.cfg.font, family0 := s.cfg.family0 }
    now := 0, host := [], outputs := [] }

theorem State.view_eq_iff {s t : State} : s.view = t.view ↔ s.SameView t := by
  constructor
  · intro h
    have hview : s.view.SameView t.view := by
      rw [h]
      exact ⟨rfl, rfl, rfl, rfl, rfl, rfl, rfl, rfl, rfl, rfl, rfl, rfl, rfl, rfl⟩
    exact { hview with }
  · rintro ⟨hv, hi, hpc, hstack, hsp, hdt, hst, hfb, hkey, hmem, hfont, hfamily0, hrnd, hdraws⟩
    simp only [State.view, hv, hi, hpc, hstack, hsp, hdt, hst, hfb, hkey, hmem, hfont, hfamily0, hrnd, hdraws]

/-- A result with its next state, if any, replaced by that state's view. -/
def viewResult : Result → Result
  | .next t => .next t.view
  | .fault f => .fault f
  | .refused r => .refused r

theorem sameViewResult_of_viewResult_eq {p q : Result} (h : viewResult p = viewResult q) : SameViewResult p q := by
  cases p <;> cases q <;> simp only [viewResult, Host.Outcome.next.injEq, Host.Outcome.fault.injEq,
    Host.Outcome.refused.injEq, reduceCtorEq] at h
  case next.next => exact State.view_eq_iff.mp h
  case fault.fault | refused.refused => exact h

/-! ### The operations on the view

A read gives the same in the view, by `rfl`. The operations that branch or recurse commute with it as follows. -/

theorem State.view_skipIf (s : State) (c : Bool) : (s.skipIf c).view = (s.view.skipIf c).view := by
  cases c <;> rfl

theorem State.view_writeBytes (s : State) (base : Nat) (bs : List Byte) :
    (s.writeBytes base bs).view = s.view.writeBytes base bs := by
  induction bs generalizing s base with
  | nil => rfl
  | cons b bs ih => exact ih (s.writeByte base b) (base + 1)

theorem State.view_loadBytes (s : State) (base n : Nat) : (s.loadBytes base n).view = s.view.loadBytes base n := by
  induction n with
  | zero => rfl
  | succ k ih =>
    by_cases h : k < 16
    · rw [State.loadBytes, State.loadBytes, dif_pos h, dif_pos h, ← ih]
      rfl
    · rw [State.loadBytes, State.loadBytes, dif_neg h, dif_neg h, ih]

theorem State.view_loadRegs (s : State) (x : Reg) (base : Nat) :
    (s.loadRegs x base).view = s.view.loadRegs x base := s.view_loadBytes base (x.val + 1)

/-! ### The instructions on the view -/

/-- The two range checks of `DXYN` and its pixels are those of the view, so it draws the same. -/
theorem viewResult_execDrw (x y : Reg) (n : Fin 16) (s : State) :
    viewResult (execDrw x y n s) = viewResult (execDrw x y n s.view) := by
  have hi : s.view.i = s.i := rfl
  have hp : s.view.drawnPixels x y n = s.drawnPixels x y n := rfl
  unfold execDrw
  rw [hi, hp]
  cases firstBeyond s.i.toNat n.val with
  | some a => rfl
  | none =>
    cases (s.drawnPixels x y n).find? offScreen with
    | some p => rfl
    | none => rfl

/-- Executing an instruction reads nothing outside the view: the checks of the instructions with more than one outcome
come out the same in the view, and each write commutes with it. -/
theorem viewResult_exec (i : Instr) (s : State) : viewResult (exec i s) = viewResult (exec i s.view) := by
  cases i
  case call nnn =>
    by_cases h : s.sp.val < 16
    · rw [exec_call_of_lt h, exec_call_of_lt (s := s.view) h]
      rfl
    · have hfull : s.sp.val = 16 := by omega
      rw [exec_call_of_full hfull, exec_call_of_full (s := s.view) hfull]
      rfl
  case ret =>
    by_cases h : s.sp.val = 0
    · rw [exec_ret_of_empty h, exec_ret_of_empty (s := s.view) h]
      rfl
    · rw [exec_ret_of_pos h, exec_ret_of_pos (s := s.view) h]
      rfl
  case seImm | sneImm | seReg | sneReg | skp | sknp => exact congrArg Host.Outcome.next (s.view_skipIf _)
  case rnd x nn =>
    cases hr : s.rnd with
    | none =>
      rw [exec_rnd_of_none hr, exec_rnd_of_none (s := s.view) hr]
      rfl
    | some b =>
      by_cases hle : b ≤ nn
      · rw [exec_rnd_of_le hr hle, exec_rnd_of_le (s := s.view) hr hle]
        rfl
      · have hgt : nn < b := BitVec.not_le.mp hle
        rw [exec_rnd_of_gt hr hgt, exec_rnd_of_gt (s := s.view) hr hgt]
  case drw x y n => exact viewResult_execDrw x y n s
  case ldVxK x =>
    cases hk : s.key with
    | none =>
      rw [exec_ldVxK_of_no_key hk, exec_ldVxK_of_no_key (s := s.view) hk]
      rfl
    | some k =>
      rw [exec_ldVxK_of_key hk, exec_ldVxK_of_key (s := s.view) hk]
      rfl
  case ldBVx x =>
    obtain h | h := le_or_gt s.i.toNat 0xFFD
    · rw [exec_ldBVx_of_le h, exec_ldBVx_of_le (s := s.view) h, ← State.view_writeBytes]
      rfl
    · rw [exec_ldBVx_of_gt h, exec_ldBVx_of_gt (s := s.view) h]
      rfl
  case ldMemVx x =>
    obtain h | h := le_or_gt (s.i.toNat + x.val) 0xFFF
    · rw [exec_ldMemVx_of_le h, exec_ldMemVx_of_le (s := s.view) h, ← State.view_writeBytes]
      rfl
    · rw [exec_ldMemVx_of_gt h, exec_ldMemVx_of_gt (s := s.view) h]
      rfl
  case ldVxMem x =>
    obtain h | h := le_or_gt (s.i.toNat + x.val) 0xFFF
    · rw [exec_ldVxMem_of_le h, exec_ldVxMem_of_le (s := s.view) h, ← State.view_loadRegs]
      rfl
    · rw [exec_ldVxMem_of_gt h, exec_ldVxMem_of_gt (s := s.view) h]
      rfl
  all_goals -- moves of registers, index, timers, screen and `PC`, and the unrecognized forms: reads and writes alone
    rfl

/-- The word at `PC` and its decoding are those of the view. -/
theorem viewResult_executeOne (s : State) : viewResult (executeOne s) = viewResult (executeOne s.view) := by
  have hfetch : s.view.fetch = s.fetch := rfl
  unfold executeOne
  rw [hfetch]
  cases s.fetch with
  | error f => rfl
  | ok w => exact viewResult_exec (decodeWord s.cfg.family0 w) s

/-- Settles O25: up to the view each result is the result in the view, which the two states share. -/
theorem programCannotObserveTime : Obligations.ProgramCannotObserveTime := by
  intro s t h
  have hview : s.view = t.view := State.view_eq_iff.mpr h
  refine ⟨fun i => sameViewResult_of_viewResult_eq ?_, sameViewResult_of_viewResult_eq ?_⟩
  · rw [viewResult_exec i s, hview, ← viewResult_exec i t]
  · rw [viewResult_executeOne s, hview, ← viewResult_executeOne t]

end Sys2Proof.Machine
end

section
/-! PROOF. The round trip of `30_encoding.md`: the word of a well-formed instruction decodes to it; and the reset state,
whose configuration has legal periods, meets the invariant. -/

namespace Sys2Proof

/-! ## The dispatcher at a sub-dispatched family (R83) -/

theorem decodeWord_of_family_8 (m : Family0Match) {w : Word} (hf : fieldF w = 0x8#4) :
    decodeWord m w = decode8 w := by
  simp only [decodeWord, hf]

theorem decodeWord_of_family_E (m : Family0Match) {w : Word} (hf : fieldF w = 0xE#4) :
    decodeWord m w = decodeE w := by
  simp only [decodeWord, hf]

theorem decodeWord_of_family_F (m : Family0Match) {w : Word} (hf : fieldF w = 0xF#4) :
    decodeWord m w = decodeF w := by
  simp only [decodeWord, hf]
  rfl

/-! ## The unrecognized forms of families 0, E and F (R84, R86) -/

theorem decode0_of_not_matched {m : Family0Match} {w : Word} {nnn : Addr12} (hf : fieldF w = 0x0#4)
    (hnnn : fieldNNN w = nnn) (h : family0Matched m nnn = false) : decode0 m w = .unrec0 nnn := by
  rw [← hnnn, ← Bool.not_eq_true, family0Matched_fieldNNN m hf, not_or] at h
  obtain ⟨hcls, hret⟩ := h
  rw [decode0_of_not_matches hcls hret, hnnn]

theorem decodeE_of_not_matched {w : Word} {nn : Byte} (hnn : fieldNN w = nn) (h : familyEMatched nn = false) :
    decodeE w = .unrecE (fieldX w) nn := by
  unfold decodeE
  rw [hnn]
  split
  case h_3 => rfl
  all_goals cases h -- a sub-opcode of the table is matched

theorem decodeF_of_not_matched {w : Word} {nn : Byte} (hnn : fieldNN w = nn) (h : familyFMatched nn = false) :
    decodeF w = .unrecF (fieldX w) nn := by
  unfold decodeF
  rw [hnn]
  split
  case h_10 => rfl
  all_goals cases h -- a sub-opcode of the table is matched

/-! ## The instruction that comes back (R83, R84, R85) -/

/-- By family: the family selects the row, and the fields of the word are the operands. -/
theorem decodeWord_encode {m : Family0Match} {i : Instr} (h : i.wellFormed m = true) : decodeWord m (encode i) = i := by
  cases i
  case cls => exact (decodeWord_of_family_0 m rfl).trans (decode0_eq_cls_iff.mpr (matchesCls_00E0 m))
  case ret => exact (decodeWord_of_family_0 m rfl).trans (decode0_eq_ret_iff.mpr (matchesRet_00EE m))
  case unrec0 nnn =>
    have hf : fieldF (formNNN 0x0#4 nnn) = 0x0#4 := fieldF_formNNN _ _
    have hmatched : family0Matched m nnn = false := by simpa [Instr.wellFormed] using h
    rw [encode, decodeWord_of_family_0 m hf, decode0_of_not_matched hf (fieldNNN_formNNN _ _) hmatched]
  case unrecE x nn =>
    have hmatched : familyEMatched nn = false := by simpa [Instr.wellFormed] using h
    rw [encode, decodeWord_of_family_E m (fieldF_formXNN _ _ _),
      decodeE_of_not_matched (fieldNN_formXNN _ _ _) hmatched, fieldX_formXNN]
  case unrecF x nn =>
    have hmatched : familyFMatched nn = false := by simpa [Instr.wellFormed] using h
    rw [encode, decodeWord_of_family_F m (fieldF_formXNN _ _ _),
      decodeF_of_not_matched (fieldNN_formXNN _ _ _) hmatched, fieldX_formXNN]
  case jp | call | ldI | jpV0 => simp only [encode, decodeWord, fieldF_formNNN, fieldNNN_formNNN]
  case seImm | sneImm | ldImm | addImm | rnd =>
    simp only [encode, decodeWord, fieldF_formXNN, fieldX_formXNN, fieldNN_formXNN]
  case seReg | sneReg | drw =>
    simp only [encode, decodeWord, fieldF_formXYN, fieldX_formXYN, fieldY_formXYN, fieldN_formXYN]
  case skp | sknp =>
    rw [encode, decodeWord_of_family_E m (fieldF_formXNN _ _ _)]
    simp only [decodeE, fieldNN_formXNN, fieldX_formXNN]
  case ldVxDt | ldVxK | ldDtVx | ldStVx | addIVx | ldFVx | ldBVx | ldMemVx | ldVxMem =>
    rw [encode, decodeWord_of_family_F m (fieldF_formXNN _ _ _)]
    simp only [decodeF, fieldNN_formXNN, fieldX_formXNN]
  case unrec8xyF =>
    rw [encode, decodeWord_of_family_8 m (fieldF_formXYN _ _ _ _)]
    simp only [decode8, fieldN_formXYN, fieldX_formXYN, fieldY_formXYN]
    rfl
  all_goals -- the other rows of family 8: the low nibble selects the row
    rw [encode, decodeWord_of_family_8 m (fieldF_formXYN _ _ _ _)]
    simp only [decode8, fieldN_formXYN, fieldX_formXYN, fieldY_formXYN]

/-- The byte decoder reads the word back from its two bytes and leaves the bytes after it (R60, R80). -/
theorem decodeBytes_bytesOfWord_append (m : Family0Match) (w : Word) (rest : List Byte) :
    decodeBytes m (bytesOfWord w ++ rest) = .ok (decodeWord m w, rest) :=
  congrArg (fun v => Except.ok (decodeWord m v, rest)) (wordOfBytes_bytesOfWord w)

/-- Settles O2: the word decodes family by family, and its two bytes give the word back. -/
theorem decodeOfEncodeIsTheInstruction : Obligations.DecodeOfEncodeIsTheInstruction := by
  intro m i h
  refine ⟨decodeWord_encode h, fun rest => ?_⟩
  rw [encodeBytes, decodeBytes_bytesOfWord_append, decodeWord_encode h]

/-- Settles O1: the decoder evaluates each of the closed words to its instruction. -/
theorem tableWordsDecodeToTheirInstructions : Obligations.TableWordsDecodeToTheirInstructions := by
  unfold Obligations.TableWordsDecodeToTheirInstructions
  decide

end Sys2Proof

namespace Sys2Proof.Machine

/-! ## The invariant at the reset state (R6, R38) -/

theorem Config.default_valid : Config.default.valid := by decide

/-- Settles O21: the reset state is that of a legal configuration. -/
theorem resetMeetsTheInvariant : Obligations.ResetMeetsTheInvariant :=
  State.resetWith_inv Config.default_valid 0

end Sys2Proof.Machine
end
